-- ==== Sys2Proof/Word.lean ====
section
/-! DEFINITION. The two sizes the block moves: bytes on the bus and 16-bit row words in the buffer. -/

namespace Sys2Proof

/-- A byte of a bus transaction, or one operand byte of an operation word (R44, R61). -/
abbrev Byte := BitVec 8

/-- A row word: bit `c` is the pixel at column `c`, 1 is lit (R21, R22). Key words have this size too (R28). -/
abbrev Row := BitVec 16

/-- The pixel buffer: eight row words (R7, R21). -/
abbrev Rows := Vector Row 8

end Sys2Proof
end

