-- ==== Sys2Proof/Config.lean ====
section
/-! DEFINITION. The parameters the spec leaves open (R8), as a record every machine state carries, and the free values:
constants without a body, about which nothing can be proved. -/

namespace Sys2Proof

/-- One event of the bus trace (R48). -/
inductive BusEvent where
  /-- A write transaction to `addr` carrying `bytes`, the command byte first. -/
  | tx (addr : BitVec 7) (bytes : List Byte)
  /-- A read transaction of `n` bytes from `addr` that returned `bytes`. -/
  | rx (addr : BitVec 7) (n : Nat) (bytes : List Byte)
  deriving DecidableEq, Repr

/-- The Device registers a command byte selects (R40, R75). -/
inductive DeviceReg where
  /-- Display RAM, written only (R40). -/
  | displayRam
  /-- Key data, read as 6 bytes (R40). -/
  | keyData
  /-- Interrupt flag, read as 1 byte (R40). -/
  | intFlag
  deriving DecidableEq, Repr, Inhabited

/-- The parameter `KEY_WORDS_DECODED`, which is 2 or 3 (R8, C1, D9). -/
inductive KeyWords where
  | two | three
  deriving DecidableEq, Repr

/-- How many snapshot words `GETKEYDATA` decodes. -/
def KeyWords.count : KeyWords → Nat
  | .two => 2
  | .three => 3

/-- The parameters of R8 that are data. A machine state carries one such record and no step changes it, so a statement
about every state holds for every value of the parameters. -/
structure Params where
  /-- Base of the system-setup command byte. -/
  cmdSystem : Byte
  /-- Base of the display-setup command byte. -/
  cmdSetup : Byte
  /-- Base of the dimming command byte. -/
  cmdDimming : Byte
  /-- Base of the row/int pin command byte. -/
  cmdRowint : Byte
  /-- Register-select byte of the display RAM. -/
  cmdRam : Byte
  /-- Register-select byte of the key data. -/
  cmdKeys : Byte
  /-- Register-select byte of the interrupt flag. -/
  cmdIntflag : Byte
  /-- `SETUP_ON_BIT`. -/
  setupOnBit : Fin 8
  /-- `SETUP_BLINK_LSB`. -/
  setupBlinkLsb : Fin 8
  /-- `KEY_WORDS_DECODED`. -/
  keyWords : KeyWords
  /-- `INTFLAG_READ_CLEARS`. -/
  intflagReadClears : Bool
  deriving DecidableEq, Repr

/-- Free value: `INTFLAG_READ_CLEARS`, which R8 and D25 leave OPEN without a default (log entry 4). -/
opaque Config.intflagReadClears : Bool

/-- Free value: does the transaction that follows this trace reach the Device? The Block cannot tell (R50, D19; log
entry 5). -/
opaque Config.reached : List BusEvent → Bool

/-- Free value: byte `k` of the answer the `DeviceOracle` gives to the read that follows this trace (R48, D19; log
entry 5). -/
opaque Config.answerByte : List BusEvent → Nat → Byte

/-- Free value: the Device's oscillator bit at power-on, unknown (D29, K14; log entry 9). -/
opaque Config.powerOnOscillator : Bool
/-- Free value: the Device's display-on flag at power-on, unknown (D29, K14; log entry 9). -/
opaque Config.powerOnDisplay : Bool
/-- Free value: the Device's blink code at power-on, unknown (D29, K14; log entry 9). -/
opaque Config.powerOnBlink : BitVec 2
/-- Free value: the Device's brightness at power-on, unknown (D29, K14; log entry 9). -/
opaque Config.powerOnBrightness : BitVec 4
/-- Free value: the Device's row/int select bit at power-on, unknown (D29, K14; log entry 9). -/
opaque Config.powerOnRowInt : Bool
/-- Free value: the Device's active-high bit at power-on, unknown (D29, K14; log entry 9). -/
opaque Config.powerOnActiveHigh : Bool
/-- Free value: the Device's key-data registers at power-on, unknown (D29, K14; log entry 9). -/
opaque Config.powerOnKeyData : Vector Byte 6
/-- Free value: the Device's interrupt-flag register at power-on, unknown (D29, K14; log entry 9). -/
opaque Config.powerOnIntFlag : Byte
/-- Free value: the Device's key latches at power-on, unknown (D29, K14; log entries 9 and 26). -/
opaque Config.powerOnKeyLatch : Bool
/-- Free value: the Device's interrupt latch at power-on, unknown (D29, K14; log entry 9). -/
opaque Config.powerOnIntLatch : Bool

/-- Free value: which Device register is selected at power-on, unknown (D29, K14; log entry 9). -/
opaque Config.powerOnSelected : DeviceReg

/-- Free value: the display-on flag after the `n`-th oscillator-off command, given what it was; whether the Device keeps
its settings across sleep is not in the source (R184; log entry 16). -/
opaque Config.sleepDisplay : Nat → Bool → Bool
/-- Free value: the blink code after the `n`-th oscillator-off command, given what it was (R184; log entry 16). -/
opaque Config.sleepBlink : Nat → BitVec 2 → BitVec 2
/-- Free value: the brightness after the `n`-th oscillator-off command, given what it was (R184; log entry 16). -/
opaque Config.sleepBrightness : Nat → BitVec 4 → BitVec 4
/-- Free value: the row/int select bit after the `n`-th oscillator-off command, given what it was (R184; log entry 16). -/
opaque Config.sleepRowInt : Nat → Bool → Bool
/-- Free value: the active-high bit after the `n`-th oscillator-off command, given what it was (R184; log entry 16). -/
opaque Config.sleepActiveHigh : Nat → Bool → Bool
/-- Free value: does the `n`-th oscillator-off command leave the display-RAM byte at this address as it was? (R184; log
entry 16). -/
opaque Config.sleepKeepsByte : Nat → Nat → Bool

/-- Free value: what the interrupt-flag register holds after a read of the key data that follows this trace. The read
clears the interrupt latch, and the spec does not say what the register then holds (R152, R196; log entry 25). -/
opaque Config.flagAfterKeyRead : List BusEvent → Byte

/-- The parameter values R8 assigns by default. `INTFLAG_READ_CLEARS` has none and stays free. -/
def Params.default : Params where
  cmdSystem := 0x20
  cmdSetup := 0x80
  cmdDimming := 0xE0
  cmdRowint := 0xA0
  cmdRam := 0x00
  cmdKeys := 0x40
  cmdIntflag := 0x60
  setupOnBit := 0
  setupBlinkLsb := 1
  keyWords := .three
  intflagReadClears := Config.intflagReadClears

end Sys2Proof
end

