-- ==== Sys2Proof/Syntax.lean ====
section
/-! DEFINITION. The instructions: the 17 Host operations (HOSTOP32), the one pseudo-operation, and the 7 command
bytes the Device executes (BUSCMD8), one constructor per row of the opcode table (R62, R69, R71 to R75). -/

namespace Sys2Proof

/-- One constructor per row of spec/opcode_table.json. Operand fields keep the width the word gives them (R61, R63);
each operation coerces them itself (R63, R80). -/
inductive Instr where
  /-- `SETPIXEL col, row, val` (R81). -/
  | setpixel (col row val : Byte)
  /-- `SETROW row, value` (R82). -/
  | setrow (row : Byte) (value : Row)
  /-- `SETCOLUMN col, value` (R83). -/
  | setcolumn (col value : Byte)
  /-- `CLEAR` (R84). -/
  | clear
  /-- `DRAWSPRITE S, colOffset, rowOffset`; the sprite `S` comes through the sprite port (R65, R85). -/
  | drawsprite (colOffset rowOffset : Byte)
  /-- The pseudo-operation `DRAWSPRITE S`, another name for the word of `DRAWSPRITE S, 0, 0` (R69). -/
  | drawspriteOrigin
  /-- `REVERSE` (R100). -/
  | reverse
  /-- `FLIPV` (R101). -/
  | flipv
  /-- `FLIPH` (R102). -/
  | fliph
  /-- `INIT address`: the address is 7 bits wide (R121). -/
  | init (address : BitVec 7)
  /-- `WAKEUP` (R122). -/
  | wakeup
  /-- `SLEEP` (R123). -/
  | sleep
  /-- `SETBRIGHTNESS level` (R124). -/
  | setbrightness (level : Byte)
  /-- `SETBLINK rate` (R125). -/
  | setblink (rate : Byte)
  /-- `SETROWINT useAsInterrupt, activeHigh` (R126). -/
  | setrowint (useAsInterrupt activeHigh : Byte)
  /-- `WRITE` (R127). -/
  | write
  /-- `GETKEYDATA` (R150). -/
  | getkeydata
  /-- `GETKEYINT` (R153). -/
  | getkeyint
  /-- Command byte `SYS(s)`, `s` the oscillator bit (R71). -/
  | sys (on : Bool)
  /-- Command byte `SETUP(on, b)`, the display-on flag and the blink code (R72). -/
  | setup (on : Bool) (blink : BitVec 2)
  /-- Command byte `DIM(l)`, the 4-bit brightness (R73). -/
  | dim (level : BitVec 4)
  /-- Command byte `ROWINT(ri, act)`, the row/int select and the active-high bit (R74). -/
  | rowint (ri act : Bool)
  /-- Command byte `CMD_RAM` with the 16 payload bytes of the same transaction (R75, R106). -/
  | ram (payload : List Byte)
  /-- Register-select byte `CMD_KEYS` (R75). -/
  | keys
  /-- Register-select byte `CMD_INTFLAG` (R75). -/
  | intflag
  deriving DecidableEq, Repr

/-- The names of the 17 Host operations, as `Fault(NotInitialised(op))` records them (R171). -/
inductive OpName where
  | setpixel | setrow | setcolumn | clear | drawsprite | reverse | flipv | fliph
  | init | wakeup | sleep | setbrightness | setblink | setrowint | write | getkeydata | getkeyint
  deriving DecidableEq, Repr

/-- The operation an instruction names: a pseudo-operation stands for the operation it expands to (R69), every other
instruction for itself. -/
def Instr.core : Instr → Instr
  | .drawspriteOrigin => .drawsprite 0 0
  | i => i

/-- The name of the Host operation an instruction is; a command byte is none (R60, R171). -/
def Instr.opName : Instr → Option OpName
  | .setpixel _ _ _ => some .setpixel
  | .setrow _ _ => some .setrow
  | .setcolumn _ _ => some .setcolumn
  | .clear => some .clear
  | .drawsprite _ _ => some .drawsprite
  | .drawspriteOrigin => some .drawsprite
  | .reverse => some .reverse
  | .flipv => some .flipv
  | .fliph => some .fliph
  | .init _ => some .init
  | .wakeup => some .wakeup
  | .sleep => some .sleep
  | .setbrightness _ => some .setbrightness
  | .setblink _ => some .setblink
  | .setrowint _ _ => some .setrowint
  | .write => some .write
  | .getkeydata => some .getkeydata
  | .getkeyint => some .getkeyint
  | .sys _ => none
  | .setup _ _ => none
  | .dim _ => none
  | .rowint _ _ => none
  | .ram _ => none
  | .keys => none
  | .intflag => none

/-- The sprite record `S = (height, row[0..height-1])` the Host supplies beside a word (R65). -/
structure Sprite where
  rows : List Row
  deriving DecidableEq, Repr

/-- The declared height of a sprite is the number of its rows (R65). -/
def Sprite.height (S : Sprite) : Nat := S.rows.length

/-- What the Host issues: an operation word and the sprite record on the sprite port beside it (R61, R65). -/
structure HostOp where
  word : BitVec 32
  sprite : Sprite
  deriving DecidableEq, Repr

end Sys2Proof
end

