-- ==== Sys2Proof/Machine/State.lean ====
section
/-! DEFINITION. The machine's state as plain data: the Block (R20), the bus (R48), the Device (R33), what the Host
supplies (R30, R65) and the parameters (R8); the faults, the refusals and the state at power-on (R34). -/

namespace Sys2Proof.Machine

/-- The Device's power mode as the Block mirrors it (R25). -/
inductive Power where
  | asleep | awake
  deriving DecidableEq, Repr

/-- The result registers the Host reads (R28, R29). -/
inductive ResultReg where
  /-- `KS[j]`. -/
  | ks (j : Fin 3)
  /-- `KEYINT`. -/
  | keyint
  deriving DecidableEq, Repr

/-- What a Host read of a result register gives. -/
inductive ResultValue where
  /-- A snapshot word. -/
  | word (v : Row)
  /-- The interrupt result. -/
  | flag (v : Bool)
  deriving DecidableEq, Repr

/-- The fault reasons, the closed list of R171. A meaning that raises one answers a next state whose `fault` field
records it; from then on a step answers that fault (R172). All are safe: the machine stops where the source gives no
behaviour (R170). -/
inductive Fault where
  /-- Raised by decoding a word whose `OPC` is unassigned (R66). Safe. -/
  | illegalOp (w : BitVec 32)
  /-- Raised by decoding an assigned opcode with a must-be-zero bit set (R66). Safe. -/
  | reservedBits (w : BitVec 32)
  /-- Raised by every operation but `INIT` while `inited` is false (R26). Safe. -/
  | notInitialised (op : OpName)
  /-- Raised by a Host read of a result register that is unwritten (R28, R29, R173, D23, K11). Safe. -/
  | readUnwritten (reg : ResultReg)
  /-- Raised by nobody here: operations are atomic, so no mutation falls inside a `WRITE` (R174). Safe. -/
  | concurrentAccess
  deriving DecidableEq, Repr

/-- Why the model gives a step no meaning. -/
inductive Refusal where
  /-- Raised by an arm of `exec` for an instruction without a meaning. Safe. No arm raises it. -/
  | notModelled (mnemonic : String)
  /-- Raised when the Device is to take a transaction the Block never sends: what it makes of one is the Device's matter
  and not in the source (R76). Safe. -/
  | noCommand (bytes : List Byte)
  /-- Raised by the display-RAM command of an ill-formed instruction, whose payload is not 16 bytes (R51, R76). Safe. -/
  | ramPayload (length : Nat)
  deriving DecidableEq, Repr

/-- The display RAM: cells of an address and a byte, addresses strictly rising. An address not listed holds no value
(R33 gives the RAM no reset value and no read-back). -/
abbrev Memory := List Host.Cell

/-- The canonical form: addresses strictly rising. -/
def Memory.wf (m : Memory) : Bool := decide ((m.map Prod.fst).Pairwise (· < ·))

/-- The state the Device holds (R33). -/
structure Device where
  /-- The oscillator bit, set by `SYS`. -/
  oscillator : Bool
  /-- The display-on flag, set by `SETUP`. -/
  displayOn : Bool
  /-- The 2-bit blink code, set by `SETUP`. -/
  blink : BitVec 2
  /-- The 4-bit brightness, set by `DIM`. -/
  brightness : BitVec 4
  /-- The row/int select bit, set by `ROWINT`. -/
  rowInt : Bool
  /-- The active-high bit, set by `ROWINT`. -/
  activeHigh : Bool
  /-- The display RAM of 16 bytes, written by `RAM`. -/
  ram : Memory
  /-- The key-data registers, read as 6 bytes. -/
  keyData : Vector Byte 6
  /-- The interrupt-flag register, read as 1 byte. -/
  intFlag : Byte
  /-- The key latches as one bit: some key event is latched and not yet cleared by a read. How many key latches the
  Device has is not in the source (R33, R152; log entry 26). -/
  keyLatch : Bool
  /-- The interrupt latch, one (R178). -/
  intLatch : Bool
  /-- The register the last register-select byte selected (R75). -/
  selected : DeviceReg
  /-- How many oscillator-off commands the Device has taken: the model's own count, which the free values of a sleep are
  applied to (log entry 16). -/
  sleeps : Nat
  deriving DecidableEq, Repr

/-- What the transport and the Device make of one transaction: whether it reaches the Device (R50), and for a read the
bytes answered (R48). -/
structure BusOutcome where
  reached : Bool
  answer : List Byte
  deriving DecidableEq, Repr

/-- The machine's state. -/
structure State where
  /-- `inited` (R26). -/
  inited : Bool
  /-- `buf[0..7]`, the pixel buffer (R21). -/
  buf : Rows
  /-- `reversed` (R23). -/
  reversed : Bool
  /-- `vFlipped` (R23). -/
  vFlipped : Bool
  /-- `hFlipped` (R23). -/
  hFlipped : Bool
  /-- `power` (R25). -/
  power : Power
  /-- `addr`, the Device's 7-bit address (R27). -/
  addr : BitVec 7
  /-- `KS[0..2]`; `none` is the spec's mark `unwritten` (R28). -/
  ks : Vector (Option Row) 3
  /-- `KEYINT`; `none` is the spec's mark `unwritten` (R29). -/
  keyint : Option Bool
  /-- `pc`, the index of the next operation in the Host's sequence (R30). -/
  pc : Nat
  /-- `fault`, `none` or one reason (R32). -/
  fault : Option Fault
  /-- The bus trace, oldest event first (R48). -/
  trace : List BusEvent
  /-- The outcomes of the coming transactions, next first; past its end the outcomes are free values (R48, R50; log
  entry 5). -/
  script : List BusOutcome
  /-- The Device's own state (R33). -/
  device : Device
  /-- Write transactions that stand at the Device and that no Block operation sent (log entry 2). -/
  wire : List (List Byte)
  /-- The Host's operation sequence, which `pc` indexes (R30, R55). -/
  ops : List HostOp
  /-- The Host's reads of result registers, next first: `(n, r)` is a read of `r` that the Host makes once `pc` has
  reached `n` (R173; log entry 7). -/
  reads : List (Nat × ResultReg)
  /-- The values the Host has read, oldest first (log entry 7). -/
  got : List ResultValue
  /-- The parameters of R8 (log entry 3). -/
  params : Params
  deriving DecidableEq, Repr

/-- The Device at power-on: its registers are free values, since nothing gives them (D29, K14; log entry 9), and its
display RAM lists nothing. -/
def Device.reset : Device where
  oscillator := Config.powerOnOscillator
  displayOn := Config.powerOnDisplay
  blink := Config.powerOnBlink
  brightness := Config.powerOnBrightness
  rowInt := Config.powerOnRowInt
  activeHigh := Config.powerOnActiveHigh
  ram := []
  keyData := Config.powerOnKeyData
  intFlag := Config.powerOnIntFlag
  keyLatch := Config.powerOnKeyLatch
  intLatch := Config.powerOnIntLatch
  selected := Config.powerOnSelected
  sleeps := 0

/-- Power-on, before the first `INIT` (R34). The fields R34 gives no value (`buf`, the flags, `power`, `addr`) hold
zero, false and `asleep` here (DESIGN CHOICE, log entry 8). -/
def State.reset : State where
  inited := false
  buf := Vector.replicate 8 0
  reversed := false
  vFlipped := false
  hFlipped := false
  power := .asleep
  addr := 0
  ks := Vector.replicate 3 none
  keyint := none
  pc := 0
  fault := none
  trace := []
  script := []
  device := Device.reset
  wire := []
  ops := []
  reads := []
  got := []
  params := Params.default

end Sys2Proof.Machine
end

