-- ==== Sys2Proof/Machine/DeviceOps.lean ====
section
/-! DEFINITION. What the Device does with each command byte and with a read, as far as the spec says (R33, R49, R51,
R152, R178), and the access operations of its display RAM. -/

namespace Sys2Proof.Machine

/-- The byte at an address of the display RAM; `none` where nothing was written, which is no value (R33). -/
def Memory.read (m : Memory) (a : Nat) : Option Byte := List.lookup a m

/-- Writing one byte keeps the cells in rising order and replaces the cell of that address. -/
def Memory.write (m : Memory) (a : Nat) (v : Byte) : Memory :=
  match m with
  | [] => [(a, v)]
  | (b, u) :: rest =>
    if a < b then (a, v) :: (b, u) :: rest
    else if a = b then (a, v) :: rest
    else (b, u) :: Memory.write rest a v

/-- Writing bytes at rising addresses. -/
def Memory.writeBytes (m : Memory) (a : Nat) (bytes : List Byte) : Memory :=
  match bytes with
  | [] => m
  | v :: rest => Memory.writeBytes (m.write a v) (a + 1) rest

/-- What an oscillator-off command leaves of the display RAM: the bytes the Device keeps across sleep; the others hold no
value any more (R184; log entry 16). -/
def Memory.afterSleep (n : Nat) (m : Memory) : Memory := m.filter fun cell => Config.sleepKeepsByte n cell.1

/-- `SYS(0)` clears the oscillator bit (R33, R71). Whether the Device keeps its display RAM and its settings across sleep
is not in the source, so these are free values from then on (R184; log entry 16). -/
def Device.oscillatorOff (d : Device) : Device :=
  { d with
    oscillator := false
    displayOn := Config.sleepDisplay d.sleeps d.displayOn
    blink := Config.sleepBlink d.sleeps d.blink
    brightness := Config.sleepBrightness d.sleeps d.brightness
    rowInt := Config.sleepRowInt d.sleeps d.rowInt
    activeHigh := Config.sleepActiveHigh d.sleeps d.activeHigh
    ram := d.ram.afterSleep d.sleeps
    sleeps := d.sleeps + 1 }

/-- `SYS(s)` sets the oscillator bit (R33, R71). No command and no read asks whether the oscillator is on (log entry
23). -/
def Device.sys (on : Bool) (d : Device) : Device := if on then { d with oscillator := true } else d.oscillatorOff

/-- `SETUP(on, b)` sets the display-on flag and the blink code (R33, R72), whatever the oscillator bit is (log entry 23),
and with `on` false too, a byte the Block never sends (log entry 24). -/
def Device.setup (on : Bool) (blink : BitVec 2) (d : Device) : Device := { d with displayOn := on, blink := blink }

/-- `DIM(l)` sets the brightness (R33, R73), whatever the oscillator bit is (log entry 23). -/
def Device.dim (level : BitVec 4) (d : Device) : Device := { d with brightness := level }

/-- `ROWINT(ri, act)` sets the row/int select and the active-high bit (R33, R74), whatever the oscillator bit is (log
entry 23), and with `act` alone too, a byte the Block never sends (log entry 24). -/
def Device.rowint (ri act : Bool) (d : Device) : Device := { d with rowInt := ri, activeHigh := act }

/-- `CMD_RAM` selects the display RAM and stores payload byte `k` at RAM address `CMD_RAM + k` (R75, D26; log entry 6),
whatever the oscillator bit is (log entry 23). -/
def Device.storeRam (p : Params) (bytes : List Byte) (d : Device) : Device :=
  { d with ram := d.ram.writeBytes p.cmdRam.toNat bytes, selected := .displayRam }

/-- `CMD_KEYS` selects the key data (R75). -/
def Device.selectKeys (d : Device) : Device := { d with selected := .keyData }

/-- `CMD_INTFLAG` selects the interrupt flag (R75). -/
def Device.selectIntFlag (d : Device) : Device := { d with selected := .intFlag }

/-- The key-data registers as an answer shows them: byte `k` of the answer is register `k` (R46, R51). An answer of fewer
than 6 bytes leaves the registers past it (log entry 27). -/
def keyRegisters (old : Vector Byte 6) (bytes : List Byte) : Vector Byte 6 :=
  #v[bytes.getD 0 old[0], bytes.getD 1 old[1], bytes.getD 2 old[2], bytes.getD 3 old[3], bytes.getD 4 old[4],
    bytes.getD 5 old[5]]

/-- The interrupt-flag register as an answer shows it: its first byte, any others being dropped (log entry 27). -/
def flagRegister (old : Byte) (bytes : List Byte) : Byte := bytes.getD 0 old

/-- A read that the Device answered with these bytes after this trace, whatever the oscillator bit is (log entry 23). The
answer is what the selected register holds at that moment (log entry 11); its length need not be that register's, where a
register-select byte was lost (log entry 27).

Reading the key data clears every key latch (one bit for them all, log entry 26) and the interrupt latch (R49, R152), and
what the interrupt-flag register then holds is a free value (log entry 25).

Reading the interrupt flag as a nonzero byte shows that the interrupt was pending, so that the Device had latched a key
event (R178): the interrupt latch and the key latch were set. The read clears the interrupt latch if
`INTFLAG_READ_CLEARS` and never otherwise, a zero byte being no clear (R49, R153, D19; log entry 28), and it clears no key
latch (R153).

A read with the display RAM selected changes nothing (log entry 18). -/
def Device.answered (p : Params) (trace : List BusEvent) (bytes : List Byte) (d : Device) : Device :=
  match d.selected with
  | .displayRam => d
  | .keyData =>
    { d with
      keyData := keyRegisters d.keyData bytes
      intFlag := Config.flagAfterKeyRead trace
      keyLatch := false
      intLatch := false }
  | .intFlag =>
    { d with
      intFlag := flagRegister d.intFlag bytes
      keyLatch := d.keyLatch || flagRegister d.intFlag bytes != 0
      intLatch := (d.intLatch || flagRegister d.intFlag bytes != 0) && !p.intflagReadClears }

end Sys2Proof.Machine
end

