-- ==== Sys2Proof/Machine/Operands.lean ====
section
/-! DEFINITION. The operand forms: how each operation coerces its operand fields (R63, R64), and the bit, byte and row
accesses they select (R41, R42, R45, R46). -/

namespace Sys2Proof.Machine

/-- A column index: bits `[3:0]` of the operand (R42). -/
def colOf (a : Byte) : BitVec 4 := a.extractLsb' 0 4

/-- A row index: bits `[2:0]` of the operand (R41). -/
def rowOf (b : Byte) : BitVec 3 := b.extractLsb' 0 3

/-- A pixel value: bit 0 of the operand (R81). -/
def valOf (c : Byte) : Bool := c.getLsbD 0

/-- A brightness level: bits `[3:0]` of the operand (R124). -/
def levelOf (a : Byte) : BitVec 4 := a.extractLsb' 0 4

/-- A blink code: bits `[1:0]` of the operand (R125, C3). -/
def rateOf (a : Byte) : BitVec 2 := a.extractLsb' 0 2

/-- A boolean operand: true when the field is nonzero (R64). -/
def boolOf (f : Byte) : Bool := f != 0

/-- The low byte `v[7:0]` (R10). -/
def lo8 (v : Row) : Byte := v.extractLsb' 0 8

/-- The high byte `v[15:8]` (R10). -/
def hi8 (v : Row) : Byte := v.extractLsb' 8 8

/-- Reading a buffer row (R10, R41). -/
def getRow (b : Rows) (r : BitVec 3) : Row := b[r.toNat]

/-- Writing a buffer row; the other rows stay (R10, R41). -/
def putRow (b : Rows) (r : BitVec 3) (v : Row) : Rows := b.set r.toNat v

/-- One bit of a row word set or cleared (R81). -/
def putBit (v : Row) (c : BitVec 4) (on : Bool) : Row :=
  if on then v ||| (1#16 <<< c.toNat) else v &&& ~~~(1#16 <<< c.toNat)

/-- A sprite row shifted left on unbounded integers and masked to 16 bits (R85, D16). -/
def shiftRow (v : Row) (a : Byte) : Row := BitVec.ofNat 16 ((v.toNat <<< a.toNat) &&& 0xFFFF)

/-- Word `j` of a key-data answer, little-byte-first, all 16 bits kept (R46, R150). -/
def keyWord (b : List Byte) (j : Nat) : Row := b.getD (2 * j + 1) 0 ++ b.getD (2 * j) 0

end Sys2Proof.Machine
end

