-- ==== Sys2Proof/Machine/Ops.lean ====
section
/-! DEFINITION. The shared operations: raising a fault (R171), completing an operation (R30), the checks every Host
operation makes (R172), the bus primitives (R48, R50), the sprite port (R65) and a Host read of a result register
(R173). -/

namespace Sys2Proof.Machine

/-- `raise Fault(reason)`: the reason is recorded and nothing else changes (R171). There is no trap entry and no return
(R175, R176). -/
def raise (f : Fault) (s : State) : State := { s with fault := some f }

/-- `pc <- pc + 1`, the end of every operation that completes (R30). -/
def complete (s : State) : State := { s with pc := s.pc + 1 }

/-- The checks of a Host operation other than `INIT`, after decoding: a recorded fault leaves no step, an uninitialised
Block raises `NotInitialised`; otherwise the body runs and `pc` advances (R172, R30). -/
def hostOp (op : OpName) (body : State → State) (s : State) : Host.Outcome State Fault Refusal :=
  match s.fault with
  | some f => .fault f
  | none => if s.inited then .next (complete (body s)) else .next (raise (.notInitialised op) s)

/-- The same for `INIT`, the one operation allowed while `inited` is false (R121, R172). -/
def initOp (body : State → State) (s : State) : Host.Outcome State Fault Refusal :=
  match s.fault with
  | some f => .fault f
  | none => .next (complete (body s))

/-- Does the next transaction reach the Device? Scripted, or else a free value (R50; log entry 5). -/
def reaches (s : State) : Bool :=
  match s.script with
  | o :: _ => o.reached
  | [] => Config.reached s.trace

/-- Byte `k` of the answer to the next read. Scripted, or else a free value (R48; log entry 5). -/
def answerByte (s : State) (k : Nat) : Byte :=
  match s.script with
  | o :: _ => o.answer.getD k (Config.answerByte s.trace k)
  | [] => Config.answerByte s.trace k

/-- The `n` bytes the next read returns. -/
def answer (s : State) (n : Nat) : List Byte := (List.range n).map (answerByte s)

/-- `BusWrite(bytes)`: the transaction goes on the trace whether or not it is delivered; the Device reacts if it is
reached, asleep or awake (R48, R50; log entries 19 and 23). -/
def busWrite (bytes : List Byte) (react : Device → Device) (s : State) : State :=
  { s with
    trace := s.trace ++ [.tx s.addr bytes]
    script := s.script.tail
    device := if reaches s then react s.device else s.device }

/-- `BusRead(n)`, its effect: the transaction and the answer go on the trace, and the read acts on the Device if it is
reached, asleep or awake (log entries 19 and 23). The bytes returned are `answer s n` (R48, R49). -/
def busRead (n : Nat) (s : State) : State :=
  { s with
    trace := s.trace ++ [.rx s.addr n (answer s n)]
    script := s.script.tail
    device := if reaches s then s.device.answered s.params s.trace (answer s n) else s.device }

/-- The sprite record on the sprite port: the one the Host supplied beside the operation at `pc` (R65). Beside no
operation there is a record of height 0. -/
def spritePort (s : State) : Sprite :=
  match s.ops[s.pc]? with
  | some op => op.sprite
  | none => ⟨[]⟩

/-- What a result register holds, `none` when it is unwritten (R28, R29). -/
def resultOf (s : State) : ResultReg → Option ResultValue
  | .ks j => (s.ks[j.val]).map .word
  | .keyint => s.keyint.map .flag

/-- The read the Host makes now: the first of its reads, once `pc` has reached that read's place (R173; log entry 7). -/
def dueRead (s : State) : Option ResultReg :=
  match s.reads with
  | (n, r) :: _ => if n ≤ s.pc then some r else none
  | [] => none

/-- A Host read of the result register `r`, the first of its reads: the value goes to the Host, or `ReadUnwritten(r)` is
raised (R173, D23). -/
def hostRead (r : ResultReg) (s : State) : Host.Outcome State Fault Refusal :=
  match resultOf s r with
  | some v => .next { s with got := s.got ++ [v], reads := s.reads.tail }
  | none => .next (raise (.readUnwritten r) s)

end Sys2Proof.Machine
end

