-- ==== Sys2Proof/Machine/Buffer.lean ====
section
/-! DEFINITION. The buffer operations: SETPIXEL, SETROW, SETCOLUMN, CLEAR, DRAWSPRITE and its offset-free
pseudo-operation (R80 to R87, R69). -/

namespace Sys2Proof.Machine

/-- The body of R81 without its `pc` update: one pixel set or cleared. -/
def setPixelStep (b : Rows) (col row val : Byte) : Rows :=
  putRow b (rowOf row) (putBit (getRow b (rowOf row)) (colOf col) (valOf val))

/-- The body of R83: for each row `r`, ascending, the pixel step with bit `r` of the value (D15). -/
def setColumnRows (b : Rows) (col value : Byte) : Rows :=
  (List.range 8).foldl (fun b r => setPixelStep b col (BitVec.ofNat 8 r) ((value >>> r) &&& 1)) b

/-- The loop of R85 from sprite row `r` on: each row is shifted and ORed into buffer row `(r + rowOffset) mod 8`. -/
def drawRows (colOffset rowOffset : Byte) (r : Nat) (rows : List Row) (b : Rows) : Rows :=
  match rows with
  | [] => b
  | v :: rest =>
    let i := BitVec.ofNat 3 ((r + rowOffset.toNat) % 8)
    drawRows colOffset rowOffset (r + 1) rest (putRow b i (getRow b i ||| shiftRow v colOffset))

/-- `SETPIXEL col, row, val` (R81). -/
def execSetpixel (col row val : Byte) (s : State) : Host.Outcome State Fault Refusal :=
  hostOp .setpixel (fun s => { s with buf := setPixelStep s.buf col row val }) s

/-- `SETROW row, value` (R82). -/
def execSetrow (row : Byte) (value : Row) (s : State) : Host.Outcome State Fault Refusal :=
  hostOp .setrow (fun s => { s with buf := putRow s.buf (rowOf row) value }) s

/-- `SETCOLUMN col, value` (R83). -/
def execSetcolumn (col value : Byte) (s : State) : Host.Outcome State Fault Refusal :=
  hostOp .setcolumn (fun s => { s with buf := setColumnRows s.buf col value }) s

/-- `CLEAR` (R84). -/
def execClear (s : State) : Host.Outcome State Fault Refusal :=
  hostOp .clear (fun s => { s with buf := Vector.replicate 8 0 }) s

/-- `DRAWSPRITE S, colOffset, rowOffset`, `S` the sprite on the sprite port (R85). -/
def execDrawsprite (colOffset rowOffset : Byte) (s : State) : Host.Outcome State Fault Refusal :=
  hostOp .drawsprite (fun s => { s with buf := drawRows colOffset rowOffset 0 (spritePort s).rows s.buf }) s

/-- `DRAWSPRITE S`: both offsets zero (R69). -/
def execDrawspriteOrigin (s : State) : Host.Outcome State Fault Refusal :=
  hostOp .drawsprite (fun s => { s with buf := drawRows 0 0 0 (spritePort s).rows s.buf }) s

end Sys2Proof.Machine
end

