-- ==== Sys2Proof/Machine/BusCommands.lean ====
section
/-! DEFINITION. The command bytes as the Device executes them (R33, R71 to R75). They act on the Device alone: the
Block's state and the trace belong to the operation that sent the byte, where one did (log entry 2). -/

namespace Sys2Proof.Machine

/-- The Device reacts to a command that reached it; nothing else changes. -/
def deviceOp (react : Device → Device) (s : State) : Host.Outcome State Fault Refusal :=
  .next { s with device := react s.device }

/-- `SYS(s)` (R71). -/
def execSys (on : Bool) (s : State) : Host.Outcome State Fault Refusal := deviceOp (Device.sys on) s

/-- `SETUP(on, b)` (R72). -/
def execSetup (on : Bool) (blink : BitVec 2) (s : State) : Host.Outcome State Fault Refusal :=
  deviceOp (Device.setup on blink) s

/-- `DIM(l)` (R73). -/
def execDim (level : BitVec 4) (s : State) : Host.Outcome State Fault Refusal := deviceOp (Device.dim level) s

/-- `ROWINT(ri, act)` (R74). -/
def execRowint (ri act : Bool) (s : State) : Host.Outcome State Fault Refusal := deviceOp (Device.rowint ri act) s

/-- `CMD_RAM` with its payload (R75). A payload that is not 16 bytes is no command the spec describes (R51, R76). -/
def execRam (bytes : List Byte) (s : State) : Host.Outcome State Fault Refusal :=
  if bytes.length = 16 then deviceOp (Device.storeRam s.params bytes) s else .refused (.ramPayload bytes.length)

/-- `CMD_KEYS` (R75). -/
def execKeys (s : State) : Host.Outcome State Fault Refusal := deviceOp Device.selectKeys s

/-- `CMD_INTFLAG` (R75). -/
def execIntflag (s : State) : Host.Outcome State Fault Refusal := deviceOp Device.selectIntFlag s

end Sys2Proof.Machine
end

