-- ==== Sys2Proof/WellFormed.lean ====
section
/-! DEFINITION. The checks on an instruction, a sprite record and the parameters that their types do not make. -/

namespace Sys2Proof

/-- An instruction is well formed when its command carries the payload the spec gives it: a display-RAM command
carries 16 bytes (R7, R75); every other operand is bounded by its type. -/
def Instr.wf : Instr → Bool
  | .ram payload => payload.length == 16
  | _ => true

/-- A sprite record is well formed when its height is an integer from 0 to 255 (R65). -/
def Sprite.wf (S : Sprite) : Bool := decide (S.height ≤ 255)

/-- The bits of the SETUP byte that hold the display-on flag (R72). -/
def Params.onMask (p : Params) : Byte := 1#8 <<< p.setupOnBit.val

/-- The bits of the SETUP byte that hold the blink code (R72). -/
def Params.blinkMask (p : Params) : Byte := 3#8 <<< p.setupBlinkLsb.val

/-- The seven command bytes as pairs of a base and the bits its payload may use (R70 to R75). -/
def Params.classes (p : Params) : List (Byte × Byte) :=
  [(p.cmdSystem, 0x01), (p.cmdSetup, p.onMask ||| p.blinkMask), (p.cmdDimming, 0x0F), (p.cmdRowint, 0x03),
   (p.cmdRam, 0), (p.cmdKeys, 0), (p.cmdIntflag, 0)]

/-- The parameters are well formed when every payload occupies bits its base leaves zero (R70), the blink field lies
inside the byte and apart from the display-on flag (R72), and no byte belongs to two commands, so that the Device can
tell them apart (DEDUCED, log entry 3). -/
def Params.wf (p : Params) : Bool :=
  p.classes.all (fun c => c.1 &&& c.2 == 0) &&
  decide (p.setupBlinkLsb.val ≤ 6) && (p.onMask &&& p.blinkMask == 0) &&
  decide (p.classes.Pairwise fun c d => (c.1 ^^^ d.1) &&& ~~~c.2 &&& ~~~d.2 ≠ 0)

end Sys2Proof
end

