-- ==== Sys2Proof/Decode.lean ====
section
/-! DEFINITION. The decoders of operation words (HOSTOP32) and of the transactions the Device takes (BUSCMD8), total and
rejecting by name, and after them the encoder. -/

namespace Sys2Proof

/-! ### Fields of an operation word (R61, R63) -/

/-- `OPC`, bits 31 to 24. -/
def opc (w : BitVec 32) : Byte := w.extractLsb' 24 8
/-- `C`, bits 23 to 16. -/
def fieldC (w : BitVec 32) : Byte := w.extractLsb' 16 8
/-- `B`, bits 15 to 8. -/
def fieldB (w : BitVec 32) : Byte := w.extractLsb' 8 8
/-- `A`, bits 7 to 0. -/
def fieldA (w : BitVec 32) : Byte := w.extractLsb' 0 8
/-- `V16`, bits 15 to 0. -/
def fieldV16 (w : BitVec 32) : Row := w.extractLsb' 0 16

/-- Why a word or a transaction is no instruction. -/
inductive DecodeError where
  /-- `OPC` is unassigned (R66). -/
  | illegalOp (w : BitVec 32)
  /-- A must-be-zero bit is 1 (R66). -/
  | reservedBits (w : BitVec 32)
  /-- The transaction is none the Block sends, and the spec does not say what the Device makes of it (R76). -/
  | noCommand (bytes : List Byte)
  deriving DecidableEq, Repr

/-- Step 2 of decoding: an assigned opcode whose must-be-zero bits (the mask) are not all 0 is rejected (R66). -/
def mustBeZero (w mask : BitVec 32) (i : Instr) : Except DecodeError Instr :=
  if w &&& mask = 0 then .ok i else .error (.reservedBits w)

/-- The decoder of operation words: the opcode map of R62 in the order of R66. -/
def decodeWord (w : BitVec 32) : Except DecodeError Instr :=
  match (opc w).toNat with
  | 0x01 => mustBeZero w 0x00000000 (.setpixel (fieldA w) (fieldB w) (fieldC w))
  | 0x02 => mustBeZero w 0x00000000 (.setrow (fieldC w) (fieldV16 w))
  | 0x03 => mustBeZero w 0x00FF0000 (.setcolumn (fieldA w) (fieldB w))
  | 0x04 => mustBeZero w 0x00FFFFFF .clear
  | 0x05 => mustBeZero w 0x00FF0000 (.drawsprite (fieldA w) (fieldB w))
  | 0x06 => mustBeZero w 0x00FFFFFF .reverse
  | 0x07 => mustBeZero w 0x00FFFFFF .flipv
  | 0x08 => mustBeZero w 0x00FFFFFF .fliph
  | 0x10 => mustBeZero w 0x00FFFF80 (.init (w.extractLsb' 0 7))
  | 0x11 => mustBeZero w 0x00FFFFFF .wakeup
  | 0x12 => mustBeZero w 0x00FFFFFF .sleep
  | 0x13 => mustBeZero w 0x00FFFF00 (.setbrightness (fieldA w))
  | 0x14 => mustBeZero w 0x00FFFF00 (.setblink (fieldA w))
  | 0x15 => mustBeZero w 0x00FF0000 (.setrowint (fieldA w) (fieldB w))
  | 0x16 => mustBeZero w 0x00FFFFFF .write
  | 0x17 => mustBeZero w 0x00FFFFFF .getkeydata
  | 0x18 => mustBeZero w 0x00FFFFFF .getkeyint
  | _ => .error (.illegalOp w)

/-! ### Command bytes (R70 to R75) -/

/-- Does the byte carry this base, the payload bits of the mask left out? -/
def hasBase (b base payloadMask : Byte) : Bool := (b &&& ~~~payloadMask) == base

/-- The command a single byte stands for, given the parameters; `CMD_RAM` is not among them, since it never stands
alone (R71 to R75). Every payload of a base is a command, `SETUP(0, b)` and `ROWINT | 0b10` too, which the Block never
sends (log entry 24). -/
def decodeCommand (p : Params) (b : Byte) : Option Instr :=
  if hasBase b p.cmdSystem 0x01 then some (.sys (b.getLsbD 0))
  else if hasBase b p.cmdSetup (p.onMask ||| p.blinkMask) then
    some (.setup (b.getLsbD p.setupOnBit.val) ((b >>> p.setupBlinkLsb.val).setWidth 2))
  else if hasBase b p.cmdDimming 0x0F then some (.dim (b.setWidth 4))
  else if hasBase b p.cmdRowint 0x03 then some (.rowint (b.getLsbD 0) (b.getLsbD 1))
  else if b = p.cmdKeys then some .keys
  else if b = p.cmdIntflag then some .intflag
  else none

/-- The decoder of a write transaction, as the Device takes it: `CMD_RAM` with its 16 payload bytes, or one command
byte alone (R75, R51). -/
def decodeTx (p : Params) (bytes : List Byte) : Except DecodeError Instr :=
  match bytes with
  | [] => .error (.noCommand [])
  | b :: rest =>
    if b = p.cmdRam then
      if rest.length = 16 then .ok (.ram rest) else .error (.noCommand (b :: rest))
    else
      match rest, decodeCommand p b with
      | [], some i => .ok i
      | _, _ => .error (.noCommand (b :: rest))

/-- An instruction as it is stored: an operation word, or the bytes of a write transaction (R60). -/
inductive Encoded where
  | word (w : BitVec 32)
  | bytes (bs : List Byte)
  deriving DecidableEq, Repr

/-- The decoder of either encoding. -/
def decode (p : Params) : Encoded → Except DecodeError Instr
  | .word w => decodeWord w
  | .bytes bs => decodeTx p bs

/-! ### The encoder -/

/-- An operation word from its four bytes `OPC`, `C`, `B`, `A` (R61). -/
def packWord (op c b a : Byte) : BitVec 32 := op ++ c ++ b ++ a

/-- `SYS(s) = CMD_SYSTEM | s` (R71). -/
def sysByte (p : Params) (on : Bool) : Byte := p.cmdSystem ||| (BitVec.ofBool on).setWidth 8

/-- `SETUP(on, b) = CMD_SETUP | (on << SETUP_ON_BIT) | (b << SETUP_BLINK_LSB)`, `b` of 2 bits (R72). -/
def setupByte (p : Params) (on : Bool) (blink : BitVec 2) : Byte :=
  p.cmdSetup ||| ((BitVec.ofBool on).setWidth 8 <<< p.setupOnBit.val) ||| (blink.setWidth 8 <<< p.setupBlinkLsb.val)

/-- `DIM(l) = CMD_DIMMING | l`, `l` of 4 bits (R73). -/
def dimByte (p : Params) (level : BitVec 4) : Byte := p.cmdDimming ||| level.setWidth 8

/-- `ROWINT(ri, act) = CMD_ROWINT | (act << 1) | ri` (R74). -/
def rowintByte (p : Params) (ri act : Bool) : Byte :=
  p.cmdRowint ||| ((BitVec.ofBool act).setWidth 8 <<< 1) ||| (BitVec.ofBool ri).setWidth 8

/-- The encoder: the word or the transaction bytes of an instruction (R62, R69, R71 to R75). -/
def encode (p : Params) : Instr → Encoded
  | .setpixel col row val => .word (packWord 0x01 val row col)
  | .setrow row value => .word (packWord 0x02 row (value.extractLsb' 8 8) (value.extractLsb' 0 8))
  | .setcolumn col value => .word (packWord 0x03 0 value col)
  | .clear => .word (packWord 0x04 0 0 0)
  | .drawsprite colOffset rowOffset => .word (packWord 0x05 0 rowOffset colOffset)
  | .drawspriteOrigin => .word (packWord 0x05 0 0 0)
  | .reverse => .word (packWord 0x06 0 0 0)
  | .flipv => .word (packWord 0x07 0 0 0)
  | .fliph => .word (packWord 0x08 0 0 0)
  | .init address => .word (packWord 0x10 0 0 (address.setWidth 8))
  | .wakeup => .word (packWord 0x11 0 0 0)
  | .sleep => .word (packWord 0x12 0 0 0)
  | .setbrightness level => .word (packWord 0x13 0 0 level)
  | .setblink rate => .word (packWord 0x14 0 0 rate)
  | .setrowint useAsInterrupt activeHigh => .word (packWord 0x15 0 activeHigh useAsInterrupt)
  | .write => .word (packWord 0x16 0 0 0)
  | .getkeydata => .word (packWord 0x17 0 0 0)
  | .getkeyint => .word (packWord 0x18 0 0 0)
  | .sys on => .bytes [sysByte p on]
  | .setup on blink => .bytes [setupByte p on blink]
  | .dim level => .bytes [dimByte p level]
  | .rowint ri act => .bytes [rowintByte p ri act]
  | .ram payload => .bytes (p.cmdRam :: payload)
  | .keys => .bytes [p.cmdKeys]
  | .intflag => .bytes [p.cmdIntflag]

/-! ### The opcode table's numbering -/

/-- The transaction whose first byte is `b` and whose other bytes, where the command has any, are 0. -/
def tableTx (p : Params) (b : Byte) : List Byte :=
  if b = p.cmdRam then b :: List.replicate 16 0 else [b]

/-- What the decoder reads from an instruction numbered as the opcode table numbers it: a 32-bit row is an operation
word, an 8-bit row the first byte of a transaction under the default parameters (R8). -/
def decodeTableWord (nbits w : Nat) : Option Instr :=
  match nbits with
  | 32 => (decodeWord (BitVec.ofNat 32 w)).toOption
  | 8 => (decodeTx Params.default (tableTx Params.default (BitVec.ofNat 8 w))).toOption
  | _ => none

end Sys2Proof
end

