-- ==== Sys2Proof/Machine/Flags.lean ====
section
/-! DEFINITION. The orientation flags at work: the serialization pipeline that reads them (R103 to R106). The Block has
no condition codes (R31), so no operation computes a flag from a result. -/

namespace Sys2Proof.Machine

/-- 16-bit bit reversal: the loop of R103, which moves bit `k` to bit `15 - k`. -/
def rev16 (v : Row) : Row :=
  (List.range 16).foldl (fun out k => out ||| ((BitVec.ofBool (v.getLsbD k)).setWidth 16 <<< (15 - k))) 0

/-- Stage 1: the buffer row that feeds physical slot `p` (R105). -/
def sourceRow (vFlipped : Bool) (p : BitVec 3) : BitVec 3 := if vFlipped then 7 - p else p

/-- Stage 2: the row value, its bits reversed if `hFlipped` (R105). -/
def orient (hFlipped : Bool) (v : Row) : Row := if hFlipped then rev16 v else v

/-- Stage 3: the two bytes of a value, the low one first unless `reversed` (R45, R105). -/
def orderBytes (reversed : Bool) (v : Row) : List Byte := if reversed then [hi8 v, lo8 v] else [lo8 v, hi8 v]

/-- The two bytes sent for physical slot `p` (R105). -/
def writeRow (s : State) (p : BitVec 3) : List Byte :=
  orderBytes s.reversed (orient s.hFlipped (getRow s.buf (sourceRow s.vFlipped p)))

/-- The 16 payload bytes of one `WRITE`, in ascending slot order (R106). -/
def payload (s : State) : List Byte :=
  [0, 1, 2, 3, 4, 5, 6, 7].flatMap (writeRow s)

end Sys2Proof.Machine
end

