-- ==== Sys2Proof/Machine/DeviceCommands.lean ====
section
/-! DEFINITION. The device commands INIT, WAKEUP, SLEEP, SETBRIGHTNESS, SETBLINK, SETROWINT and WRITE (R119 to R128).
The bodies are shared where R121 shares them. -/

namespace Sys2Proof.Machine

/-- The body of R122: oscillator on, `power` awake. -/
def wakeBody (s : State) : State :=
  { busWrite [sysByte s.params true] (Device.sys true) s with power := .awake }

/-- The body of R123: oscillator off, `power` asleep. -/
def sleepBody (s : State) : State :=
  { busWrite [sysByte s.params false] (Device.sys false) s with power := .asleep }

/-- The body of R124: one dimming command. -/
def brightnessBody (level : BitVec 4) (s : State) : State :=
  busWrite [dimByte s.params level] (Device.dim level) s

/-- The body of R125: one setup command, the display-on flag always set. -/
def blinkBody (rate : BitVec 2) (s : State) : State :=
  busWrite [setupByte s.params true rate] (Device.setup true rate) s

/-- The body of R126: one row/int command, active-high sent only together with interrupt mode. -/
def rowintBody (useAsInterrupt activeHigh : Bool) (s : State) : State :=
  busWrite [rowintByte s.params useAsInterrupt (useAsInterrupt && activeHigh)]
    (Device.rowint useAsInterrupt (useAsInterrupt && activeHigh)) s

/-- The body of R127: the display-RAM command and the 16 payload bytes in one transaction. -/
def writeBody (s : State) : State :=
  busWrite (s.params.cmdRam :: payload s) (Device.storeRam s.params (payload s)) s

/-- The first part of R121: the address taken, the flags and the buffer reset, the Block initialised. Opening the bus
puts nothing on the trace (R48). -/
def initState (address : BitVec 7) (s : State) : State :=
  { s with
    addr := address
    reversed := false
    vFlipped := false
    hFlipped := false
    buf := Vector.replicate 8 0
    inited := true }

/-- The body of R121, its sub-steps in the source's order (D35). -/
def initBody (address : BitVec 7) (s : State) : State :=
  writeBody (brightnessBody 15 (blinkBody 0 (wakeBody (initState address s))))

/-- `INIT address` (R121). -/
def execInit (address : BitVec 7) (s : State) : Host.Outcome State Fault Refusal :=
  initOp (initBody address) s

/-- `WAKEUP` (R122). -/
def execWakeup (s : State) : Host.Outcome State Fault Refusal := hostOp .wakeup wakeBody s

/-- `SLEEP` (R123). -/
def execSleep (s : State) : Host.Outcome State Fault Refusal := hostOp .sleep sleepBody s

/-- `SETBRIGHTNESS level` (R124). -/
def execSetbrightness (level : Byte) (s : State) : Host.Outcome State Fault Refusal :=
  hostOp .setbrightness (brightnessBody (levelOf level)) s

/-- `SETBLINK rate` (R125). -/
def execSetblink (rate : Byte) (s : State) : Host.Outcome State Fault Refusal :=
  hostOp .setblink (blinkBody (rateOf rate)) s

/-- `SETROWINT useAsInterrupt, activeHigh` (R126). -/
def execSetrowint (useAsInterrupt activeHigh : Byte) (s : State) : Host.Outcome State Fault Refusal :=
  hostOp .setrowint (rowintBody (boolOf useAsInterrupt) (boolOf activeHigh)) s

/-- `WRITE` (R127). -/
def execWrite (s : State) : Host.Outcome State Fault Refusal := hostOp .write writeBody s

end Sys2Proof.Machine
end

