-- ==== Sys2Proof/Machine/KeyScan.lean ====
section
/-! DEFINITION. The key-scan reader GETKEYDATA and GETKEYINT (R149 to R154). -/

namespace Sys2Proof.Machine

/-- The snapshot after a key-data answer: the decoded words replaced, `KS[2]` kept when the parameter
`KEY_WORDS_DECODED` is 2 (R150). -/
def snapshot (k : KeyWords) (old : Vector (Option Row) 3) (b : List Byte) : Vector (Option Row) 3 :=
  match k with
  | .two => #v[some (keyWord b 0), some (keyWord b 1), old[2]]
  | .three => #v[some (keyWord b 0), some (keyWord b 1), some (keyWord b 2)]

/-- The register-select write of `GETKEYDATA` (R150). -/
def selectKeysBody (s : State) : State := busWrite [s.params.cmdKeys] Device.selectKeys s

/-- The register-select write of `GETKEYINT` (R153). -/
def selectIntFlagBody (s : State) : State := busWrite [s.params.cmdIntflag] Device.selectIntFlag s

/-- The body of R150 from the read on. -/
def readKeysBody (s : State) : State :=
  { busRead 6 s with ks := snapshot s.params.keyWords s.ks (answer s 6) }

/-- The body of R153 from the read on: any nonzero byte is pending. -/
def readIntFlagBody (s : State) : State :=
  { busRead 1 s with keyint := some (answerByte s 0 != 0) }

/-- `GETKEYDATA` (R150). -/
def execGetkeydata (s : State) : Host.Outcome State Fault Refusal :=
  hostOp .getkeydata (fun s => readKeysBody (selectKeysBody s)) s

/-- `GETKEYINT` (R153). -/
def execGetkeyint (s : State) : Host.Outcome State Fault Refusal :=
  hostOp .getkeyint (fun s => readIntFlagBody (selectIntFlagBody s)) s

end Sys2Proof.Machine
end

