-- ==== Sys2Proof/Machine/Orientation.lean ====
section
/-! DEFINITION. The orientation toggles REVERSE, FLIPV and FLIPH (R99 to R102). -/

namespace Sys2Proof.Machine

/-- `REVERSE` (R100). -/
def execReverse (s : State) : Host.Outcome State Fault Refusal :=
  hostOp .reverse (fun s => { s with reversed := !s.reversed }) s

/-- `FLIPV` (R101). -/
def execFlipv (s : State) : Host.Outcome State Fault Refusal :=
  hostOp .flipv (fun s => { s with vFlipped := !s.vFlipped }) s

/-- `FLIPH` (R102). -/
def execFliph (s : State) : Host.Outcome State Fault Refusal :=
  hostOp .fliph (fun s => { s with hFlipped := !s.hFlipped }) s

end Sys2Proof.Machine
end

