-- ==== Sys2Proof/Machine/Dispatch.lean ====
section
/-! DEFINITION. One arm per instruction, each one call of its meaning. -/

namespace Sys2Proof.Machine

def exec (i : Instr) (s : State) : Host.Outcome State Fault Refusal :=
  match i with
  | .setpixel col row val => Sys2Proof.Machine.execSetpixel col row val s
  | .setrow row value => Sys2Proof.Machine.execSetrow row value s
  | .setcolumn col value => Sys2Proof.Machine.execSetcolumn col value s
  | .clear => Sys2Proof.Machine.execClear s
  | .drawsprite colOffset rowOffset => Sys2Proof.Machine.execDrawsprite colOffset rowOffset s
  | .drawspriteOrigin => Sys2Proof.Machine.execDrawspriteOrigin s
  | .reverse => Sys2Proof.Machine.execReverse s
  | .flipv => Sys2Proof.Machine.execFlipv s
  | .fliph => Sys2Proof.Machine.execFliph s
  | .init address => Sys2Proof.Machine.execInit address s
  | .wakeup => Sys2Proof.Machine.execWakeup s
  | .sleep => Sys2Proof.Machine.execSleep s
  | .setbrightness level => Sys2Proof.Machine.execSetbrightness level s
  | .setblink rate => Sys2Proof.Machine.execSetblink rate s
  | .setrowint useAsInterrupt activeHigh => Sys2Proof.Machine.execSetrowint useAsInterrupt activeHigh s
  | .write => Sys2Proof.Machine.execWrite s
  | .getkeydata => Sys2Proof.Machine.execGetkeydata s
  | .getkeyint => Sys2Proof.Machine.execGetkeyint s
  | .sys on => Sys2Proof.Machine.execSys on s
  | .setup on blink => Sys2Proof.Machine.execSetup on blink s
  | .dim level => Sys2Proof.Machine.execDim level s
  | .rowint ri act => Sys2Proof.Machine.execRowint ri act s
  | .ram payload => Sys2Proof.Machine.execRam payload s
  | .keys => Sys2Proof.Machine.execKeys s
  | .intflag => Sys2Proof.Machine.execIntflag s

end Sys2Proof.Machine
end

