-- ==== Sys2Proof/Machine/Fetch.lean ====
section
/-! DEFINITION. What a step does before an instruction runs: which agent moves, the fetch of its instruction, and the
faults of decoding (R66, R171, R172). -/

namespace Sys2Proof.Machine

/-- What the fetch gives: an instruction and the state it runs in, or an outcome without one. -/
inductive Fetched where
  | run (i : Instr) (s : State)
  | stop (o : Host.Outcome State Fault Refusal)

/-- A decoding error as an outcome: the word's fault is raised (R66, R171); an unknown transaction at the Device is
refused (R76). -/
def decodeFailed (e : DecodeError) (s : State) : Host.Outcome State Fault Refusal :=
  match e with
  | .illegalOp w => .next (raise (.illegalOp w) s)
  | .reservedBits w => .next (raise (.reservedBits w) s)
  | .noCommand bytes => .refused (.noCommand bytes)

/-- A decoded instruction runs in the state `t`; where there is none, the outcome is read in the state `s`. -/
def fetched (d : Except DecodeError Instr) (t s : State) : Fetched :=
  match d with
  | .ok i => .run i t
  | .error e => .stop (decodeFailed e s)

/-- The next move: none after a fault (R172); a transaction that stands at the Device; a read the Host makes now; the
operation at `pc`; and where the Host has issued none, nothing happens (log entries 2, 7 and 10). -/
def fetch (s : State) : Fetched :=
  match s.fault with
  | some f => .stop (.fault f)
  | none =>
    match s.wire with
    | bytes :: rest => fetched (decodeTx s.params bytes) { s with wire := rest } s
    | [] =>
      match dueRead s with
      | some r => .stop (hostRead r s)
      | none =>
        match s.ops[s.pc]? with
        | some op => fetched (decodeWord op.word) s s
        | none => .stop (.next s)

/-- A list with `x` at index `n`; where the list is shorter, copies of `x` fill the gap. -/
def placeAt (l : List HostOp) (n : Nat) (x : HostOp) : List HostOp :=
  if n < l.length then l.set n x else l ++ List.replicate (n + 1 - l.length) x

/-- The state with this word as the Host's next operation, and nothing waiting before it. The sprite port keeps its
record. -/
def placeWord (s : State) (w : BitVec 32) : State :=
  { s with wire := [], reads := [], ops := placeAt s.ops s.pc ⟨w, spritePort s⟩ }

/-- The state with this transaction as the one that stands at the Device. -/
def placeTx (s : State) (bytes : List Byte) : State := { s with wire := [bytes] }

end Sys2Proof.Machine
end

