-- ==== Sys2Proof/Machine/Step.lean ====
section
/-! DEFINITION. One step of the machine, and the placing of an instruction where the next step fetches it. -/

namespace Sys2Proof.Machine

/-- One step: fetch, then run the instruction fetched. -/
def step (s : State) : Host.Outcome State Fault Refusal :=
  match fetch s with
  | .run i t => exec i t
  | .stop o => o

/-- The state with the instruction of a table row where the next step fetches it: an operation word (32 bits) is the
Host's next operation, a command byte (8 bits) a transaction at the Device, with zeros for the payload it has. -/
def State.withFetchWord (s : State) (nbits w : Nat) : State :=
  match nbits with
  | 32 => placeWord s (BitVec.ofNat 32 w)
  | 8 => placeTx s (tableTx s.params (BitVec.ofNat 8 w))
  | _ => s

end Sys2Proof.Machine
end

