-- ==== Sys2Proof/Safety.lean ====
section
/-! DEFINITION. The terms in which claims speak of the machine: when an operation executes, what a fault does, what the
Block may send, and the invariants of the state. -/

namespace Sys2Proof.Machine

/-- The conditions under which a Host operation executes normally: no fault is recorded and the Block is initialised
(R172). -/
abbrev Ready (s : State) : Prop := s.fault = none ∧ s.inited = true

/-- The Host is about to issue `op`: no fault, nothing at the Device, no read to make now, and `op` at `pc`. -/
abbrev Issues (s : State) (op : HostOp) : Prop :=
  s.fault = none ∧ s.wire = [] ∧ dueRead s = none ∧ s.ops[s.pc]? = some op

/-- Pixel `c` of buffer row `r`, both reduced as every index is (R41, R42, R22). -/
def pixel (b : Rows) (r c : Nat) : Bool := (getRow b (BitVec.ofNat 3 r)).getLsbD (c % 16)

/-- The decoding rule of an opcode: a set must-be-zero bit gives `ReservedBits`, otherwise the word is the operation
with the fields of the word as operands (R62, R66). -/
def DecodesAs (opcode : Byte) (mustBeZeroMask : BitVec 32) (operation : BitVec 32 → Instr) : Prop :=
  ∀ w : BitVec 32, opc w = opcode →
    (w &&& mustBeZeroMask ≠ 0 → decodeWord w = .error (.reservedBits w)) ∧
    (w &&& mustBeZeroMask = 0 → decodeWord w = .ok (operation w))

/-- The faults of an operation after decoding: uninitialised, it raises `NotInitialised` and nothing else changes; after
a fault it has no step (R26, R172). -/
def FaultsAs (op : OpName) (i : Instr) : Prop :=
  ∀ s : State,
    (s.fault = none → s.inited = false → exec i s = .next { s with fault := some (.notInitialised op) }) ∧
    (∀ f, s.fault = some f → exec i s = .fault f)

/-- The opcode map of R62: each assigned opcode with its must-be-zero bits. -/
def opcodeMap : List (Byte × BitVec 32) :=
  [(0x01, 0x00000000), (0x02, 0x00000000), (0x03, 0x00FF0000), (0x04, 0x00FFFFFF), (0x05, 0x00FF0000),
   (0x06, 0x00FFFFFF), (0x07, 0x00FFFFFF), (0x08, 0x00FFFFFF), (0x10, 0x00FFFF80), (0x11, 0x00FFFFFF),
   (0x12, 0x00FFFFFF), (0x13, 0x00FFFF00), (0x14, 0x00FFFF00), (0x15, 0x00FF0000), (0x16, 0x00FFFFFF),
   (0x17, 0x00FFFFFF), (0x18, 0x00FFFFFF)]

/-- Two states that differ at most in the Device and in the outcomes of coming transactions, that is, in nothing the
Block holds and nothing on the trace. -/
def SameBlock (s t : State) : Prop := { s with device := t.device, script := t.script } = t

/-- What is certain of the Device `e` after an oscillator-off command that the Device `d` took: the oscillator is off, the
key registers, the latches and the selected register are as they were, and each byte of the display RAM is as it was or
holds no value any more; the settings are free (R184; log entry 16). -/
def AfterSleep (d e : Device) : Prop :=
  e.oscillator = false ∧ e.keyData = d.keyData ∧ e.intFlag = d.intFlag ∧ e.keyLatch = d.keyLatch ∧
  e.intLatch = d.intLatch ∧ e.selected = d.selected ∧ ∀ a, e.ram.read a = d.ram.read a ∨ e.ram.read a = none

/-- The write transactions the Block may send: one of the command bytes of R71 to R75 alone, with the display-on flag set
(R128) and the active-high bit only together with the row/int bit (R74), or the display-RAM write with 16 bytes. -/
def Sendable (p : Params) (bytes : List Byte) : Prop :=
  (∃ on, bytes = [sysByte p on]) ∨
  (∃ b, bytes = [setupByte p true b]) ∨
  (∃ l, bytes = [dimByte p l]) ∨
  (∃ ri act, (act = true → ri = true) ∧ bytes = [rowintByte p ri act]) ∨
  (∃ data : List Byte, data.length = 16 ∧ bytes = p.cmdRam :: data) ∨
  bytes = [p.cmdKeys] ∨ bytes = [p.cmdIntflag]

/-- A trace is well formed when every write transaction on it is one the Block may send, and every read transaction
follows at once the register-select write of its own operation, to the same address, and carries the bytes it asked for:
6 after `CMD_KEYS`, 1 after `CMD_INTFLAG` (R44, R52, R70, R149). -/
def TraceOk (p : Params) (trace : List BusEvent) : Prop :=
  (∀ a bytes, BusEvent.tx a bytes ∈ trace → Sendable p bytes) ∧
  (∀ before a n bytes after, trace = before ++ BusEvent.rx a n bytes :: after →
    bytes.length = n ∧
    ((n = 6 ∧ ∃ start, before = start ++ [.tx a [p.cmdKeys]]) ∨
     (n = 1 ∧ ∃ start, before = start ++ [.tx a [p.cmdIntflag]])))

/-- The display RAM is in canonical form and lists no byte outside its 16 addresses (R33, R40, D26). -/
def RamOk (s : State) : Prop :=
  s.device.ram.wf = true ∧
  ∀ cell ∈ s.device.ram, s.params.cmdRam.toNat ≤ cell.1 ∧ cell.1 < s.params.cmdRam.toNat + 16

/-- The Block before and after initialisation: an uninitialised Block has completed no operation, sent nothing and read
nothing (R34); `KS[0]` and `KS[1]` are written together; and `KS[2]` is written together with them when
`KEY_WORDS_DECODED` is 3, never when it is 2 (R150, R173). -/
def BlockOk (s : State) : Prop :=
  (s.inited = false → s.pc = 0 ∧ s.trace = [] ∧ s.keyint = none ∧ s.ks = Vector.replicate 3 none) ∧
  (s.ks[1].isSome = s.ks[0].isSome) ∧
  (s.params.keyWords = .two → s.ks[2] = none) ∧
  (s.params.keyWords = .three → s.ks[2].isSome = s.ks[0].isSome)

end Sys2Proof.Machine
end

