-- ==== Sys2Proof/Certificates/Slice0/Obligations.lean ====
section
/-! DEFINITION. The statements for the provers. Each docstring names the rules of spec/ it formalises. -/

open Sys2Proof Sys2Proof.Machine

/-! ### Power-on and invariants -/

/-- R34: what the Block holds before the first INIT, and that no operation can read the fields R34 gives no value:
every operation but INIT faults while `inited` is false, and INIT gives the same whatever they hold (the spec's
decision D11). -/
def Obligations.PowerOnState : Prop :=
  State.reset.inited = false ∧ State.reset.fault = none ∧ State.reset.pc = 0 ∧
  (∀ j : Fin 3, State.reset.ks[j] = none) ∧ State.reset.keyint = none ∧
  (∀ (i : Instr) (op : OpName) (s : State), i.opName = some op → op ≠ .init → s.fault = none → s.inited = false →
    exec i s = .next { s with fault := some (.notInitialised op) }) ∧
  ∀ (a : BitVec 7) (s : State) (b : Rows) (rv vf hf : Bool) (q : Power) (d : BitVec 7),
    exec (.init a) { s with buf := b, reversed := rv, vFlipped := vf, hFlipped := hf, power := q, addr := d } =
      exec (.init a) s

/-- The three invariants hold at power-on (R34, R33, R48). -/
def Obligations.InvariantsAtPowerOn : Prop :=
  RamOk State.reset ∧ BlockOk State.reset ∧ TraceOk State.reset.params State.reset.trace

/-- Every step keeps the display RAM in canonical form and inside its 16 addresses (R33, R40). Where the bytes land is
the model's choice (D26, log entry 6). -/
def Obligations.StepKeepsRamForm : Prop :=
  ∀ s t : State, RamOk s → step s = .next t → RamOk t

/-- Every step keeps the state of an uninitialised Block empty, and the snapshot words written together (R34, R150,
R173). -/
def Obligations.StepKeepsBlockForm : Prop :=
  ∀ s t : State, BlockOk s → step s = .next t → BlockOk t

/-- Every step keeps the trace well formed: the Block sends only the transactions of R71 to R75, never a setup byte
with the display-on bit clear (R128) nor `ROWINT | 0b10` (R74), and every read follows its register-select write
(R149, R52). -/
def Obligations.StepKeepsTraceForm : Prop :=
  ∀ s t : State, TraceOk s.params s.trace → step s = .next t → TraceOk t.params t.trace

/-- The trace only grows (R48), and no step writes the Host's operation sequence (R55) or the parameters (R8). -/
def Obligations.StepAppendsToTrace : Prop :=
  ∀ s t : State, step s = .next t → s.trace <+: t.trace ∧ t.ops = s.ops ∧ t.params = s.params

/-- R26: `inited` is false before the first INIT and true after it, only INIT writes it, and every other operation
requires it and otherwise raises `NotInitialised` (the spec's decision D11). -/
def Obligations.OnlyInitInitialises : Prop :=
  State.reset.inited = false ∧
  (∀ (a : BitVec 7) (s : State), s.fault = none → ∃ t, exec (.init a) s = .next t ∧ t.inited = true) ∧
  (∀ (i : Instr) (s t : State), (∀ a, i ≠ .init a) → exec i s = .next t → t.inited = s.inited) ∧
  (∀ (i : Instr) (op : OpName) (s : State), i.opName = some op → op ≠ .init → s.fault = none → s.inited = false →
    exec i s = .next { s with fault := some (.notInitialised op) })

/-! ### Steps, decoding and faults -/

/-- A step runs the instruction it decodes: the operation at `pc` in the state itself (R30), or the transaction that
stands at the Device in the state without it (log entry 2). That a transaction that is no command is refused by
name is the model's choice (log entry 17), since what the Device makes of it is not in the source (R76), and so is that
with nothing waiting and no operation issued nothing happens (log entry 10). -/
def Obligations.StepRunsDecoded : Prop :=
  (∀ (s : State) (op : HostOp) (i : Instr), Issues s op → decodeWord op.word = .ok i → step s = exec i s) ∧
  (∀ (s : State) (bytes : List Byte) (rest : List (List Byte)) (i : Instr), s.fault = none → s.wire = bytes :: rest →
    decodeTx s.params bytes = .ok i → step s = exec i { s with wire := rest }) ∧
  (∀ (s : State) (bytes : List Byte) (rest : List (List Byte)) (e : DecodeError), s.fault = none →
    s.wire = bytes :: rest → decodeTx s.params bytes = .error e → step s = .refused (.noCommand bytes)) ∧
  (∀ s : State, s.fault = none → s.wire = [] → dueRead s = none → s.ops[s.pc]? = none → step s = .next s)

/-- An instruction placed where the next step fetches it is the one the next step runs (the model's own placing, log
entry 10). -/
def Obligations.PlacedInstructionRuns : Prop :=
  (∀ (s : State) (w : Nat) (i : Instr), s.fault = none → decodeWord (BitVec.ofNat 32 w) = .ok i →
    step (s.withFetchWord 32 w) = exec i (s.withFetchWord 32 w) ∧
    spritePort (s.withFetchWord 32 w) = spritePort s) ∧
  (∀ (s : State) (w : Nat) (i : Instr), s.fault = none →
    decodeTx s.params (tableTx s.params (BitVec.ofNat 8 w)) = .ok i →
    step (s.withFetchWord 8 w) = exec i { s with wire := [] })

/-- R66: the decoder's three answers, in order, for every 32-bit word; a decoded word is the encoding of its operation
(the encoding and its faults are the spec's decisions D2 and D3). -/
def Obligations.DecoderIsTotalInOrder : Prop :=
  ∀ w : BitVec 32,
    ((∀ row ∈ opcodeMap, opc w ≠ row.1) → decodeWord w = .error (.illegalOp w)) ∧
    (∀ row ∈ opcodeMap, opc w = row.1 →
      (w &&& row.2 ≠ 0 → decodeWord w = .error (.reservedBits w)) ∧
      (w &&& row.2 = 0 → ∃ i op, decodeWord w = .ok i ∧ i.opName = some op ∧ encode Params.default i = .word w))

/-- R32: a recorded fault is never cleared and nothing executes after it, and only raising a fault, which changes
nothing else, writes the field (the spec's decision D3). That the stop holds for the whole machine, the Device's port
and the Host's reads included, is the model's choice (log entry 1). -/
def Obligations.FaultIsStickyAndPrecise : Prop :=
  (∀ (s : State) (f : Fault), s.fault = some f → step s = .fault f) ∧
  (∀ (s : State) (f : Fault) (i : Instr) (op : OpName), s.fault = some f → i.opName = some op → exec i s = .fault f) ∧
  (∀ s t : State, step s = .next t → s.fault = none ∧ (t.fault = none ∨ t = { s with fault := t.fault }))

/-- R172: the checks of one operation in their order, the first that applies reported and nothing else changed, and an
operation that passes them all completes and raises nothing (the spec's decision D3). That a fault stops the whole
machine, the Device's port and the Host's reads included, is the model's choice (log entry 1). -/
def Obligations.ChecksRunInOrder : Prop :=
  (∀ (s : State) (f : Fault), s.fault = some f → step s = .fault f) ∧
  ∀ (s : State) (op : HostOp), Issues s op →
    (decodeWord op.word = .error (.illegalOp op.word) ∧ (∀ row ∈ opcodeMap, opc op.word ≠ row.1) ∧
      step s = .next { s with fault := some (.illegalOp op.word) }) ∨
    (decodeWord op.word = .error (.reservedBits op.word) ∧
      (∃ row ∈ opcodeMap, opc op.word = row.1 ∧ op.word &&& row.2 ≠ 0) ∧
      step s = .next { s with fault := some (.reservedBits op.word) }) ∨
    (∃ i name, decodeWord op.word = .ok i ∧ i.opName = some name ∧
      if s.inited = false ∧ name ≠ .init then step s = .next { s with fault := some (.notInitialised name) }
      else ∃ t, step s = .next t ∧ t.fault = none ∧ t.pc = s.pc + 1)

/-- R30: `pc` advances by one with every operation that completes, stays with one that faults, and nothing else writes
it (the spec's decision D22). -/
def Obligations.PcCountsCompletedOperations : Prop :=
  (∀ (i : Instr) (op : OpName) (s t : State), i.opName = some op → exec i s = .next t →
    if t.fault = none then t.pc = s.pc + 1 else t.pc = s.pc) ∧
  (∀ (i : Instr) (s t : State), i.opName = none → exec i s = .next t → t.pc = s.pc) ∧
  (∀ s t : State, step s = .next t → t.pc = s.pc ∨ t.pc = s.pc + 1)

/-- R170: no operand value and no bus outcome makes an operation raise anything. -/
def Obligations.NoOperandOrBusOutcomeFaults : Prop :=
  ∀ (i : Instr) (op : OpName) (s : State), i.opName = some op → s.fault = none → (s.inited = true ∨ op = .init) →
    ∃ t, exec i s = .next t ∧ t.fault = none ∧ t.pc = s.pc + 1

/-- Decoding the encoding of a well-formed instruction gives it back, a pseudo-operation as the operation it expands
to (R62, R63, R69, R71 to R75), under every well-formed choice of the parameters. -/
def Obligations.DecodeOfEncode : Prop :=
  ∀ (p : Params) (i : Instr), p.wf = true → i.wf = true → decode p (encode p i) = .ok i.core

/-- A transaction that decodes is the encoding of its command, which is well formed and no Host operation (R60, R71 to
R75). -/
def Obligations.DecodedTransactionEncodesBack : Prop :=
  ∀ (p : Params) (bytes : List Byte) (i : Instr), p.wf = true → decodeTx p bytes = .ok i →
    encode p i = .bytes bytes ∧ i.wf = true ∧ i.opName = none

/-- A few words of spec/95_test_vectors.md and R68, one or more per family, decode to the operation they stand for.
The two command bytes use the default parameters, which are general knowledge in the spec (G1, G2; PRESUMED, log entry
12). -/
def Obligations.SpecWordsDecode : Prop :=
  decodeWord 0x01010302 = .ok (.setpixel 2 3 1) ∧ decodeWord 0x0208ABCD = .ok (.setrow 8 0xABCD) ∧
  decodeWord 0x03008104 = .ok (.setcolumn 4 0x81) ∧ decodeWord 0x05000604 = .ok (.drawsprite 4 6) ∧
  decodeWord 0x08000000 = .ok .fliph ∧ decodeWord 0x10000070 = .ok (.init 0x70) ∧
  decodeWord 0x15000100 = .ok (.setrowint 0 1) ∧ decodeWord 0x17000000 = .ok .getkeydata ∧
  decodeTx Params.default [0x21] = .ok (.sys true) ∧ decodeTx Params.default [0x85] = .ok (.setup true 2) ∧
  decodeWord 0x10000080 = .error (.reservedBits 0x10000080) ∧ decodeWord 0x09000000 = .error (.illegalOp 0x09000000)

/-- The command bytes under the default parameters (R71 to R75; the values are general knowledge in the spec, G1, G2,
G4; PRESUMED, log entry 12). -/
def Obligations.DefaultCommandBytes : Prop :=
  sysByte Params.default true = 0x21 ∧ sysByte Params.default false = 0x20 ∧
  (List.map (setupByte Params.default true) [0, 1, 2, 3] = [0x81, 0x83, 0x85, 0x87]) ∧
  dimByte Params.default 0 = 0xE0 ∧ dimByte Params.default 15 = 0xEF ∧
  rowintByte Params.default false false = 0xA0 ∧ rowintByte Params.default true false = 0xA1 ∧
  rowintByte Params.default true true = 0xA3 ∧
  Params.default.cmdRam = 0x00 ∧ Params.default.cmdKeys = 0x40 ∧ Params.default.cmdIntflag = 0x60

/-- Where each payload stands in its command byte, under every well-formed choice of the parameters: the base is what
is left when the payload bits are taken out (R70), the oscillator bit is bit 0 (R71), the display-on flag and the
blink code stand at their parameters (R72), the brightness is bits 3 to 0 (R73), the row/int select is bit 0 and
active-high bit 1 (R74). -/
def Obligations.CommandByteLayout : Prop :=
  ∀ p : Params, p.wf = true →
    (∀ on, sysByte p on &&& 0xFE = p.cmdSystem ∧ (sysByte p on).getLsbD 0 = on) ∧
    (∀ on b, setupByte p on b &&& ~~~(p.onMask ||| p.blinkMask) = p.cmdSetup ∧
      (setupByte p on b).getLsbD p.setupOnBit.val = on ∧
      (setupByte p on b).extractLsb' p.setupBlinkLsb.val 2 = b) ∧
    (∀ l, dimByte p l &&& 0xF0 = p.cmdDimming ∧ (dimByte p l).extractLsb' 0 4 = l) ∧
    (∀ ri act, rowintByte p ri act &&& 0xFC = p.cmdRowint ∧ (rowintByte p ri act).getLsbD 0 = ri ∧
      (rowintByte p ri act).getLsbD 1 = act)

/-! ### Buffer operations -/

/-- R81: SETPIXEL, its word, its faults, and its effect: the pixel at column `col mod 16` of row `row mod 8` takes bit
0 of `val`, every other pixel and everything else stays, and `pc` advances. -/
def Obligations.SetPixelRule : Prop :=
  (∀ w : BitVec 32, opc w = 0x01 →
    decodeWord w = .ok (.setpixel (w.extractLsb' 0 8) (w.extractLsb' 8 8) (w.extractLsb' 16 8))) ∧
  (∀ col row val, FaultsAs .setpixel (.setpixel col row val)) ∧
  ∀ (col row val : Byte) (s : State), Ready s → ∃ b : Rows,
    exec (.setpixel col row val) s = .next { s with buf := b, pc := s.pc + 1 } ∧
    ∀ r c, r < 8 → c < 16 →
      pixel b r c = if r = row.toNat % 8 ∧ c = col.toNat % 16 then val.getLsbD 0 else pixel s.buf r c

/-- R82: SETROW replaces the whole word of row `row mod 8` and leaves the other rows. -/
def Obligations.SetRowRule : Prop :=
  (∀ w : BitVec 32, opc w = 0x02 →
    decodeWord w = .ok (.setrow (w.extractLsb' 16 8) (w.extractLsb' 0 16))) ∧
  (∀ row value, FaultsAs .setrow (.setrow row value)) ∧
  ∀ (row : Byte) (value : Row) (s : State), Ready s → ∃ b : Rows,
    exec (.setrow row value) s = .next { s with buf := b, pc := s.pc + 1 } ∧
    ∀ r c, r < 8 → c < 16 → pixel b r c = if r = row.toNat % 8 then value.getLsbD c else pixel s.buf r c

/-- R83: SETCOLUMN writes column `col mod 16` of all eight rows, row `r` from bit `r` of `value` (the spec's decision
D15), and leaves the other columns. -/
def Obligations.SetColumnRule : Prop :=
  DecodesAs 0x03 0x00FF0000 (fun w => .setcolumn (w.extractLsb' 0 8) (w.extractLsb' 8 8)) ∧
  (∀ col value, FaultsAs .setcolumn (.setcolumn col value)) ∧
  ∀ (col value : Byte) (s : State), Ready s → ∃ b : Rows,
    exec (.setcolumn col value) s = .next { s with buf := b, pc := s.pc + 1 } ∧
    ∀ r c, r < 8 → c < 16 → pixel b r c = if c = col.toNat % 16 then value.getLsbD r else pixel s.buf r c

/-- R84: CLEAR zeroes every row and changes nothing else. -/
def Obligations.ClearRule : Prop :=
  DecodesAs 0x04 0x00FFFFFF (fun _ => .clear) ∧ FaultsAs .clear .clear ∧
  ∀ s : State, Ready s → ∃ b : Rows,
    exec .clear s = .next { s with buf := b, pc := s.pc + 1 } ∧ ∀ r : Fin 8, b[r] = 0

/-- R85: DRAWSPRITE lights, in buffer row `(k + rowOffset) mod 8`, each pixel of sprite row `k` moved `colOffset`
columns up; pixels moved past column 15 are lost, lit pixels stay lit, nothing is unlit and nothing else changes. The
unbounded shift and the heights above 8 are the spec's decisions D16 and D17. -/
def Obligations.DrawSpriteRule : Prop :=
  DecodesAs 0x05 0x00FF0000 (fun w => .drawsprite (w.extractLsb' 0 8) (w.extractLsb' 8 8)) ∧
  (∀ colOffset rowOffset, FaultsAs .drawsprite (.drawsprite colOffset rowOffset)) ∧
  ∀ (colOffset rowOffset : Byte) (s : State), Ready s → ∃ b : Rows,
    exec (.drawsprite colOffset rowOffset) s = .next { s with buf := b, pc := s.pc + 1 } ∧
    ∀ r c, r < 8 → c < 16 →
      (pixel b r c = true ↔ pixel s.buf r c = true ∨
        ∃ k v, (spritePort s).rows[k]? = some v ∧ (k + rowOffset.toNat) % 8 = r ∧ colOffset.toNat ≤ c ∧
          v.getLsbD (c - colOffset.toNat) = true)

/-- R69: the offset-free DRAWSPRITE is DRAWSPRITE with both offsets zero, in its word and in its effect, and completes
as that does. -/
def Obligations.OffsetFreeDrawSprite : Prop :=
  (∀ p : Params, encode p .drawspriteOrigin = encode p (.drawsprite 0 0)) ∧
  (∀ s : State, exec .drawspriteOrigin s = exec (.drawsprite 0 0) s) ∧
  (∀ s : State, Ready s → ∃ b : Rows, exec .drawspriteOrigin s = .next { s with buf := b, pc := s.pc + 1 } ∧
    ∀ r c, r < 8 → c < 16 →
      (pixel b r c = true ↔ pixel s.buf r c = true ∨
        ∃ k v, (spritePort s).rows[k]? = some v ∧ k % 8 = r ∧ v.getLsbD c = true))

/-- R86, which the spec derives from R81: setting and then clearing a pixel leaves it 0 and every other bit as it was,
so the buffer is restored exactly when the pixel was 0. -/
def Obligations.SetThenClearPixel : Prop :=
  ∀ (col row : Byte) (s : State), Ready s → ∃ t u : State,
    exec (.setpixel col row 1) s = .next t ∧ exec (.setpixel col row 0) t = .next u ∧
    (∀ r c, r < 8 → c < 16 →
      pixel u.buf r c = if r = row.toNat % 8 ∧ c = col.toNat % 16 then false else pixel s.buf r c) ∧
    (u.buf = s.buf ↔ pixel s.buf (row.toNat % 8) (col.toNat % 16) = false)

/-- R87, which the spec derives from R85: a sprite of at most 8 rows drawn without offsets on a cleared buffer leaves
its rows in the buffer, and zero in the rows past its height; the pseudo-operation does the same. -/
def Obligations.SpriteOnClearedBuffer : Prop :=
  ∀ s : State, Ready s → (∀ r : Fin 8, s.buf[r] = 0) → (spritePort s).height ≤ 8 → ∃ t : State,
    exec (.drawsprite 0 0) s = .next t ∧ exec .drawspriteOrigin s = .next t ∧
    ∀ r : Fin 8, t.buf[r] = ((spritePort s).rows[r.val]?).getD 0

/-! ### Orientation and the pipeline -/

/-- R100, R101, R102: each toggle inverts its own flag and changes nothing else but `pc`, and two calls cancel. -/
def Obligations.TogglesRule : Prop :=
  DecodesAs 0x06 0x00FFFFFF (fun _ => .reverse) ∧ DecodesAs 0x07 0x00FFFFFF (fun _ => .flipv) ∧
  DecodesAs 0x08 0x00FFFFFF (fun _ => .fliph) ∧
  FaultsAs .reverse .reverse ∧ FaultsAs .flipv .flipv ∧ FaultsAs .fliph .fliph ∧
  ∀ s : State, Ready s →
    exec .reverse s = .next { s with reversed := !s.reversed, pc := s.pc + 1 } ∧
    exec .flipv s = .next { s with vFlipped := !s.vFlipped, pc := s.pc + 1 } ∧
    exec .fliph s = .next { s with hFlipped := !s.hFlipped, pc := s.pc + 1 } ∧
    ∀ i, i ∈ [Instr.reverse, .flipv, .fliph] → ∃ t, exec i s = .next t ∧ exec i t = .next { s with pc := s.pc + 2 }

/-- R103: bit `k` of a row value is bit `15 - k` of its reversal, and the source's example. -/
def Obligations.BitReversalRule : Prop :=
  (∀ (v : Row) (k : Nat), k < 16 → (rev16 v).getLsbD (15 - k) = v.getLsbD k) ∧ rev16 0x0005 = 0xA000

/-- R104: bit reversal undoes itself and, which the spec derives, commutes with the byte swap. -/
def Obligations.BitReversalLaws : Prop :=
  ∀ v : Row, rev16 (rev16 v) = v ∧ rev16 (lo8 v ++ hi8 v) = lo8 (rev16 v) ++ hi8 (rev16 v)

/-- R105, and R108, which the spec derives from it: the two bytes of a physical slot under every combination of the
flags; and a byte of a reversed row is the other byte with its own bits reversed. -/
def Obligations.SlotBytes : Prop :=
  (∀ (s : State) (p : Nat), p < 8 →
    writeRow s (BitVec.ofNat 3 p) =
      match s.vFlipped, s.hFlipped, s.reversed with
      | false, false, false => [lo8 (getRow s.buf (BitVec.ofNat 3 p)), hi8 (getRow s.buf (BitVec.ofNat 3 p))]
      | false, false, true => [hi8 (getRow s.buf (BitVec.ofNat 3 p)), lo8 (getRow s.buf (BitVec.ofNat 3 p))]
      | false, true, false =>
        [lo8 (rev16 (getRow s.buf (BitVec.ofNat 3 p))), hi8 (rev16 (getRow s.buf (BitVec.ofNat 3 p)))]
      | false, true, true =>
        [hi8 (rev16 (getRow s.buf (BitVec.ofNat 3 p))), lo8 (rev16 (getRow s.buf (BitVec.ofNat 3 p)))]
      | true, false, false =>
        [lo8 (getRow s.buf (BitVec.ofNat 3 (7 - p))), hi8 (getRow s.buf (BitVec.ofNat 3 (7 - p)))]
      | true, false, true =>
        [hi8 (getRow s.buf (BitVec.ofNat 3 (7 - p))), lo8 (getRow s.buf (BitVec.ofNat 3 (7 - p)))]
      | true, true, false =>
        [lo8 (rev16 (getRow s.buf (BitVec.ofNat 3 (7 - p)))), hi8 (rev16 (getRow s.buf (BitVec.ofNat 3 (7 - p))))]
      | true, true, true =>
        [hi8 (rev16 (getRow s.buf (BitVec.ofNat 3 (7 - p)))), lo8 (rev16 (getRow s.buf (BitVec.ofNat 3 (7 - p))))]) ∧
  ∀ v : Row, lo8 (rev16 v) = (hi8 v).reverse ∧ hi8 (rev16 v) = (lo8 v).reverse

/-- R106: the payload is 16 bytes, bytes `2p` and `2p + 1` being the two bytes of physical slot `p`. -/
def Obligations.PayloadOrder : Prop :=
  ∀ s : State, (payload s).length = 16 ∧
    ∀ p, p < 8 → ∃ a b, writeRow s (BitVec.ofNat 3 p) = [a, b] ∧
      (payload s)[2 * p]? = some a ∧ (payload s)[2 * p + 1]? = some b

/-- R109, which the spec derives from R100 to R105: a toggle called twice leaves the output of a following WRITE what
it would have been without. -/
def Obligations.TogglePairKeepsOutput : Prop :=
  ∀ (i : Instr) (s : State), i ∈ [Instr.fliph, .flipv, .reverse] → Ready s → ∃ t u v w : State,
    exec i s = .next t ∧ exec i t = .next u ∧ exec .write u = .next v ∧ exec .write s = .next w ∧ v.trace = w.trace

/-- R110, which the spec derives from R84 and R105: CLEAR and then WRITE transmits 16 zero bytes whatever the flags.
-/
def Obligations.ClearThenWriteSendsZeros : Prop :=
  ∀ s : State, Ready s → ∃ t u : State,
    exec .clear s = .next t ∧ exec .write t = .next u ∧
    u.trace = s.trace ++ [.tx s.addr (s.params.cmdRam :: List.replicate 16 0)]

/-! ### Device commands -/

/-- R121, R35, R191: INIT at any time without a fault, its word, the state it leaves and its four transactions. Their
order, the second INIT and the kept key registers are the spec's decisions D35, D12 and D23. -/
def Obligations.InitRule : Prop :=
  DecodesAs 0x10 0x00FFFF80 (fun w => .init (w.extractLsb' 0 7)) ∧
  (∀ (a : BitVec 7) (s : State) (f : Fault), s.fault = some f → exec (.init a) s = .fault f) ∧
  ∀ (a : BitVec 7) (s : State), s.fault = none → ∃ (b : Rows) (d : Device) (o : List BusOutcome),
    (∀ r : Fin 8, b[r] = 0) ∧
    exec (.init a) s = .next
      { s with
        inited := true, buf := b, reversed := false, vFlipped := false, hFlipped := false, power := .awake, addr := a,
        device := d, script := o, pc := s.pc + 1,
        trace := s.trace ++
          [.tx a [s.params.cmdSystem ||| 1], .tx a [setupByte s.params true 0], .tx a [dimByte s.params 15],
            .tx a (s.params.cmdRam :: List.replicate 16 0)] }

/-- What the Device holds after an INIT whose four transactions reach it (R192, R33): oscillator on, display on with
blink off, brightness 15, 16 zero bytes in the RAM; its pin configuration and its latches stay. Where the bytes land
is the model's choice (D26, log entry 6), as is the scripting of what reaches the Device (log entry 5); that the RAM
write leaves the display RAM selected (R75) is its reading (log entry 11). -/
def Obligations.InitReachesDevice : Prop :=
  ∀ (a : BitVec 7) (s : State), s.fault = none →
    (∀ k, k < 4 → ∃ o, s.script[k]? = some o ∧ o.reached = true) → ∃ t : State,
    exec (.init a) s = .next t ∧
    t.device =
      { s.device with
        oscillator := true, displayOn := true, blink := 0, brightness := 15, ram := t.device.ram,
        selected := .displayRam } ∧
    ∀ x, t.device.ram.read x =
      if s.params.cmdRam.toNat ≤ x ∧ x < s.params.cmdRam.toNat + 16 then some 0 else s.device.ram.read x

/-- R122, R123: WAKEUP and SLEEP in either power state send the system-setup byte with the oscillator bit set or
clear, move `power`, and leave the rest of the Block (SLEEP while asleep is the spec's decision D13). -/
def Obligations.WakeAndSleepRule : Prop :=
  DecodesAs 0x11 0x00FFFFFF (fun _ => .wakeup) ∧ DecodesAs 0x12 0x00FFFFFF (fun _ => .sleep) ∧
  FaultsAs .wakeup .wakeup ∧ FaultsAs .sleep .sleep ∧
  ∀ s : State, Ready s →
    (∃ d o, exec .wakeup s = .next
      { s with
        power := .awake, trace := s.trace ++ [.tx s.addr [s.params.cmdSystem ||| 1]], device := d, script := o,
        pc := s.pc + 1 }) ∧
    (∃ d o, exec .sleep s = .next
      { s with
        power := .asleep, trace := s.trace ++ [.tx s.addr [s.params.cmdSystem]], device := d, script := o,
        pc := s.pc + 1 })

/-- R124: SETBRIGHTNESS sends one dimming byte with `level mod 16` and changes nothing else in the Block. -/
def Obligations.SetBrightnessRule : Prop :=
  DecodesAs 0x13 0x00FFFF00 (fun w => .setbrightness (w.extractLsb' 0 8)) ∧
  (∀ level, FaultsAs .setbrightness (.setbrightness level)) ∧
  ∀ (level : Byte) (s : State), Ready s → ∃ d o, exec (.setbrightness level) s = .next
    { s with
      trace := s.trace ++ [.tx s.addr [s.params.cmdDimming ||| BitVec.ofNat 8 (level.toNat % 16)]], device := d,
      script := o, pc := s.pc + 1 }

/-- R125: SETBLINK sends one setup byte with the display-on flag set and `rate mod 4` as the blink code (the mask is
the spec's decision D6). -/
def Obligations.SetBlinkRule : Prop :=
  DecodesAs 0x14 0x00FFFF00 (fun w => .setblink (w.extractLsb' 0 8)) ∧
  (∀ rate, FaultsAs .setblink (.setblink rate)) ∧
  ∀ (rate : Byte) (s : State), Ready s → ∃ d o, exec (.setblink rate) s = .next
    { s with
      trace := s.trace ++
        [.tx s.addr
          [s.params.cmdSetup ||| (1#8 <<< s.params.setupOnBit.val) |||
            (BitVec.ofNat 8 (rate.toNat % 4) <<< s.params.setupBlinkLsb.val)]]
      device := d, script := o, pc := s.pc + 1 }

/-- R126: SETROWINT sends the row/int byte; the active-high bit is set only together with interrupt mode. A nonzero
operand is true (the spec's decision D4). -/
def Obligations.SetRowIntRule : Prop :=
  DecodesAs 0x15 0x00FF0000 (fun w => .setrowint (w.extractLsb' 0 8) (w.extractLsb' 8 8)) ∧
  (∀ u h, FaultsAs .setrowint (.setrowint u h)) ∧
  ∀ (u h : Byte) (s : State), Ready s → ∃ d o, exec (.setrowint u h) s = .next
    { s with
      trace := s.trace ++
        [.tx s.addr [s.params.cmdRowint ||| (if u = 0 then 0b00 else if h = 0 then 0b01 else 0b11)]]
      device := d, script := o, pc := s.pc + 1 }

/-- R127: WRITE sends one transaction of 17 bytes, the display-RAM byte and the payload of the pipeline, and changes
no Block state but `pc`. -/
def Obligations.WriteRule : Prop :=
  DecodesAs 0x16 0x00FFFFFF (fun _ => .write) ∧ FaultsAs .write .write ∧
  ∀ s : State, Ready s → ∃ bytes d o, bytes.length = 17 ∧
    bytes = s.params.cmdRam ::
      (writeRow s 0 ++ writeRow s 1 ++ writeRow s 2 ++ writeRow s 3 ++ writeRow s 4 ++ writeRow s 5 ++ writeRow s 6 ++
        writeRow s 7) ∧
    exec .write s = .next { s with trace := s.trace ++ [.tx s.addr bytes], device := d, script := o, pc := s.pc + 1 }

/-! ### Key scan -/

/-- R150: GETKEYDATA sends the key-data select byte, reads 6 bytes, and decodes them little-byte-first into the
snapshot words `KEY_WORDS_DECODED` names; with 2, `KS[2]` stays (the spec's decisions D9 and D10). Where both
transactions reach the Device, the read clears its latches (R152); that it does so asleep as awake, that the read acts
on the selected register, and that one bit stands for all key latches is the model's choice and reading (log entries
23, 11 and 26). -/
def Obligations.GetKeyDataRule : Prop :=
  DecodesAs 0x17 0x00FFFFFF (fun _ => .getkeydata) ∧ FaultsAs .getkeydata .getkeydata ∧
  ∀ s : State, Ready s → ∃ (b : List Byte) (ks : Vector (Option Row) 3) (d : Device) (o : List BusOutcome),
    b.length = 6 ∧
    (∀ j : Fin 3, ks[j] =
      if j.val < s.params.keyWords.count then
        some (BitVec.ofNat 16 ((b.getD (2 * j.val) 0).toNat + 256 * (b.getD (2 * j.val + 1) 0).toNat))
      else s.ks[j]) ∧
    (reaches s = true → reaches (selectKeysBody s) = true → d.keyLatch = false ∧ d.intLatch = false) ∧
    exec .getkeydata s = .next
      { s with
        ks := ks, trace := s.trace ++ [.tx s.addr [s.params.cmdKeys], .rx s.addr 6 b], device := d, script := o,
        pc := s.pc + 1 }

/-- R153: GETKEYINT sends the interrupt-flag select byte, reads 1 byte, and records whether it is nonzero. Where the
select byte reaches the Device, its key data stay and no key latch is cleared; where the read does too, a nonzero byte
shows that both latches were set (R178), and the interrupt latch is cleared if `INTFLAG_READ_CLEARS` holds; where the
parameter does not hold, a set latch stays, whatever the byte (R49). That this holds asleep as awake, that the read acts
on the selected register, that one bit stands for all key latches, and that a zero byte leaves a set latch is the
model's choice and reading (log entries 23, 11, 26 and 28). -/
def Obligations.GetKeyIntRule : Prop :=
  DecodesAs 0x18 0x00FFFFFF (fun _ => .getkeyint) ∧ FaultsAs .getkeyint .getkeyint ∧
  ∀ s : State, Ready s → ∃ (b : Byte) (d : Device) (o : List BusOutcome),
    (reaches s = true → d.keyData = s.device.keyData ∧
      d.keyLatch = (s.device.keyLatch || (reaches (selectIntFlagBody s) && b != 0))) ∧
    (s.params.intflagReadClears = true → reaches s = true → reaches (selectIntFlagBody s) = true →
      d.intLatch = false) ∧
    (s.params.intflagReadClears = false → reaches s = true →
      d.intLatch = (s.device.intLatch || (reaches (selectIntFlagBody s) && b != 0))) ∧
    exec .getkeyint s = .next
      { s with
        keyint := some (decide (b ≠ 0)), trace := s.trace ++ [.tx s.addr [s.params.cmdIntflag], .rx s.addr 1 [b]],
        device := d, script := o, pc := s.pc + 1 }

/-- Every answer is possible: the Device's answer to a read is any bytes (R48, R50, D19), here those the outcomes of
the coming transactions give (the model's script, log entry 5). -/
def Obligations.EveryAnswerIsPossible : Prop :=
  (∀ (s : State) (q : Bool) (x : List Byte) (r : Bool) (b : List Byte) (rest : List BusOutcome), Ready s →
    b.length = 6 → s.script = ⟨q, x⟩ :: ⟨r, b⟩ :: rest → ∃ t : State, exec .getkeydata s = .next t ∧
      t.trace = s.trace ++ [.tx s.addr [s.params.cmdKeys], .rx s.addr 6 b] ∧ t.script = rest) ∧
  (∀ (s : State) (q : Bool) (x : List Byte) (r : Bool) (b : Byte) (rest : List BusOutcome), Ready s →
    s.script = ⟨q, x⟩ :: ⟨r, [b]⟩ :: rest → ∃ t : State, exec .getkeyint s = .next t ∧
      t.trace = s.trace ++ [.tx s.addr [s.params.cmdIntflag], .rx s.addr 1 [b]] ∧ t.keyint = some (b != 0))

/-- A key read that reaches the Device clears its latches (R152, R49); an interrupt-flag read leaves the key data
and clears no key latch, and clears the interrupt latch if `INTFLAG_READ_CLEARS`; otherwise a set latch stays; and a
nonzero byte shows that a key event was latched and the interrupt pending (R49, R153, R178). The Device's record is the
model's reading (log entries 5 and 11), and that it acts asleep as awake, that one bit stands for all key latches and
that a zero byte leaves a set latch is the model's choice (log entries 23, 26 and 28). -/
def Obligations.KeyReadsClearLatches : Prop :=
  ∀ (s : State) (x b : List Byte) (rest : List BusOutcome), Ready s → s.script = ⟨true, x⟩ :: ⟨true, b⟩ :: rest →
    (∃ t : State, exec .getkeydata s = .next t ∧ t.device.keyLatch = false ∧ t.device.intLatch = false) ∧
    (∃ t : State, exec .getkeyint s = .next t ∧ t.device.keyData = s.device.keyData ∧
      t.device.keyLatch = (s.device.keyLatch || t.keyint == some true) ∧
      (s.params.intflagReadClears = true → t.device.intLatch = false) ∧
      (s.params.intflagReadClears = false → t.device.intLatch = (s.device.intLatch || t.keyint == some true)))

/-- R154, which the spec derives from R150 and R153: the key-scan operations read no row and no orientation flag:
other values of these change nothing but themselves in what the operations give. -/
def Obligations.KeyScanIgnoresDisplay : Prop :=
  ∀ (i : Instr) (s t : State) (b : Rows) (rv vf hf : Bool), i ∈ [Instr.getkeydata, .getkeyint] → exec i s = .next t →
    exec i { s with buf := b, reversed := rv, vFlipped := vf, hFlipped := hf } =
      .next { t with buf := b, reversed := rv, vFlipped := vf, hFlipped := hf }

/-- R173: a Host read of an unwritten result register raises `ReadUnwritten` and changes nothing else; a written one
gives its value; and with `KEY_WORDS_DECODED` 2 every read of `KS[2]` raises it, in every state that meets the
invariant of `StepKeepsBlockForm` (the spec's decision D23; how the Host's reads are queued is the model's, log entry
7). -/
def Obligations.HostReadRule : Prop :=
  (∀ (s : State) (n : Nat) (j : Fin 3) (waiting : List (Nat × ResultReg)), s.fault = none → s.wire = [] →
    s.reads = (n, .ks j) :: waiting → n ≤ s.pc → step s = match s.ks[j] with
      | none => .next { s with fault := some (.readUnwritten (.ks j)) }
      | some v => .next { s with got := s.got ++ [.word v], reads := waiting }) ∧
  (∀ (s : State) (n : Nat) (waiting : List (Nat × ResultReg)), s.fault = none → s.wire = [] →
    s.reads = (n, .keyint) :: waiting → n ≤ s.pc → step s = match s.keyint with
      | none => .next { s with fault := some (.readUnwritten .keyint) }
      | some v => .next { s with got := s.got ++ [.flag v], reads := waiting }) ∧
  (∀ (s : State) (n : Nat) (waiting : List (Nat × ResultReg)), BlockOk s → s.params.keyWords = .two →
    s.fault = none → s.wire = [] → s.reads = (n, .ks 2) :: waiting → n ≤ s.pc →
    step s = .next { s with fault := some (.readUnwritten (.ks 2)) })

/-! ### The Device -/

/-- What each command byte does to the Device (R33, R71 to R75): it sets the registers the spec names and nothing
else, but that `SYS(0)` leaves the settings and the display RAM free (R184, log entry 16); the display-RAM command
stores its 16 bytes from address `CMD_RAM` on (the model's choice, D26, log entry 6), and with another number of bytes
it is refused by name, which is the model's choice (log entry 17), since no such command is described (R51, R76). That
a command byte acts on the Device alone, that only a select byte or the display-RAM command changes the selected
register, that the oscillator bit does not matter, and that `SETUP(0, b)` and `ROWINT | 0b10` are taken are the
model's too (log entries 2, 11, 23 and 24). -/
def Obligations.CommandBytesAtDevice : Prop :=
  ∀ s : State,
    exec (.sys true) s = .next { s with device := { s.device with oscillator := true } } ∧
    (∃ d, exec (.sys false) s = .next { s with device := d } ∧ AfterSleep s.device d) ∧
    (∀ on b, exec (.setup on b) s = .next { s with device := { s.device with displayOn := on, blink := b } }) ∧
    (∀ l, exec (.dim l) s = .next { s with device := { s.device with brightness := l } }) ∧
    (∀ ri act, exec (.rowint ri act) s = .next { s with device := { s.device with rowInt := ri, activeHigh := act } }) ∧
    exec .keys s = .next { s with device := { s.device with selected := .keyData } } ∧
    exec .intflag s = .next { s with device := { s.device with selected := .intFlag } } ∧
    (∀ bytes : List Byte, bytes.length = 16 → ∃ m : Memory,
      exec (.ram bytes) s = .next { s with device := { s.device with ram := m, selected := .displayRam } } ∧
      ∀ x, m.read x =
        if s.params.cmdRam.toNat ≤ x ∧ x < s.params.cmdRam.toNat + 16 then bytes[x - s.params.cmdRam.toNat]?
        else s.device.ram.read x) ∧
    (∀ bytes : List Byte, bytes.length ≠ 16 → exec (.ram bytes) s = .refused (.ramPayload bytes.length))

/-- A WAKEUP, SLEEP, SETBRIGHTNESS, SETBLINK, SETROWINT or WRITE that reaches the Device does there what its command
byte does (R33, R71 to R75; where the payload lands is the model's choice, D26, log entry 6); one that does not reach
it leaves the Device as it was (R50). What reaches it is a free value (log entry 5), and so is what the Device keeps
across sleep (log entry 16); that the Device acts asleep as awake is the model's choice (log entry 23), and that WRITE
selects the display RAM (R75) and the setting commands leave the selected register is its reading (log entry 11). -/
def Obligations.BlockCommandsActOnDevice : Prop :=
  ∀ s : State, Ready s →
    ∃ tw ts : State, exec .wakeup s = .next tw ∧ exec .sleep s = .next ts ∧
    (∀ level, ∃ t, exec (.setbrightness level) s = .next t ∧
      (reaches s = true → t.device = { s.device with brightness := level.setWidth 4 }) ∧
      (reaches s = false → t.device = s.device)) ∧
    (∀ rate, ∃ t, exec (.setblink rate) s = .next t ∧
      (reaches s = true → t.device = { s.device with displayOn := true, blink := rate.setWidth 2 }) ∧
      (reaches s = false → t.device = s.device)) ∧
    (∀ u h, ∃ t, exec (.setrowint u h) s = .next t ∧
      (reaches s = true → t.device = { s.device with rowInt := u != 0, activeHigh := u != 0 && h != 0 }) ∧
      (reaches s = false → t.device = s.device)) ∧
    (∃ t, exec .write s = .next t ∧
      (reaches s = true → t.device.selected = .displayRam ∧ ∀ x, t.device.ram.read x =
        if s.params.cmdRam.toNat ≤ x ∧ x < s.params.cmdRam.toNat + 16 then (payload s)[x - s.params.cmdRam.toNat]?
        else s.device.ram.read x) ∧
      (reaches s = false → t.device = s.device)) ∧
    (reaches s = true → tw.device = { s.device with oscillator := true } ∧ AfterSleep s.device ts.device) ∧
    (reaches s = false → tw.device = s.device ∧ ts.device = s.device)

/-! ### Whole-machine rules -/

/-- `power` gates nothing (R25, R119): with another power state an instruction gives the same next state, but for
`power` itself. -/
def Obligations.PowerGatesNothing : Prop :=
  ∀ (i : Instr) (s t : State) (q : Power), exec i s = .next t →
    ∃ q', exec i { s with power := q } = .next { t with power := q' }

/-- Bus failure is invisible (R50): whatever reaches the Device, and whatever the Device holds, an instruction given
the same answers leaves the same Block state and the same trace. -/
def Obligations.BusFailureIsInvisible : Prop :=
  ∀ (i : Instr) (s t : State) (d : Device) (o : List BusOutcome),
    o.map BusOutcome.answer = s.script.map BusOutcome.answer → exec i s = .next t →
    ∃ u, exec i { s with device := d, script := o } = .next u ∧ SameBlock t u

/-- Only WRITE makes the buffer and the flags visible (R54, R24): with another buffer and other flags, every other
instruction puts the same transactions on the trace and leaves the same Device; with other flags alone, every
instruction leaves the same buffer. -/
def Obligations.OnlyWriteShowsTheBuffer : Prop :=
  (∀ (i : Instr) (s t : State) (b : Rows) (rv vf hf : Bool), i ≠ .write → exec i s = .next t →
    ∃ u, exec i { s with buf := b, reversed := rv, vFlipped := vf, hFlipped := hf } = .next u ∧
      u.trace = t.trace ∧ u.device = t.device ∧ u.ks = t.ks ∧ u.keyint = t.keyint ∧ u.power = t.power) ∧
  (∀ (i : Instr) (s t : State) (rv vf hf : Bool), exec i s = .next t →
    ∃ u, exec i { s with reversed := rv, vFlipped := vf, hFlipped := hf } = .next u ∧ u.buf = t.buf)

/-! ### Frames -/

/-- Frame of the buffer operations SETPIXEL, SETROW, SETCOLUMN, CLEAR, DRAWSPRITE and the offset-free DRAWSPRITE
(R80): they change the buffer, `pc` and, before INIT only, `fault`; no flag, no other register, nothing on the bus, no
byte of the display RAM. -/
def Obligations.BufferOperationsFrame : Prop :=
  ∀ (i : Instr) (s t : State),
    (∃ col row val, i = .setpixel col row val) ∨ (∃ row value, i = .setrow row value) ∨
      (∃ col value, i = .setcolumn col value) ∨ i = .clear ∨ (∃ c r, i = .drawsprite c r) ∨ i = .drawspriteOrigin →
    exec i s = .next t →
    t = { s with buf := t.buf, pc := t.pc, fault := t.fault } ∧
    (s.inited = true → t.fault = none) ∧ (s.inited = false → t.buf = s.buf) ∧
    ∀ a, t.device.ram.read a = s.device.ram.read a

/-- Frame of the toggles (R99): each changes its own flag, `pc` and, before INIT only, `fault`; no row, no other flag,
no other register, nothing on the bus, no byte of the display RAM. -/
def Obligations.TogglesFrame : Prop :=
  ∀ (i : Instr) (s t : State), i ∈ [Instr.reverse, .flipv, .fliph] → exec i s = .next t →
    t = { s with
      reversed := t.reversed, vFlipped := t.vFlipped, hFlipped := t.hFlipped, pc := t.pc, fault := t.fault } ∧
    (i ≠ .reverse → t.reversed = s.reversed) ∧ (i ≠ .flipv → t.vFlipped = s.vFlipped) ∧
    (i ≠ .fliph → t.hFlipped = s.hFlipped) ∧ (s.inited = true → t.fault = none) ∧
    ∀ a, t.device.ram.read a = s.device.ram.read a

/-- Frame of WAKEUP, SLEEP, SETBRIGHTNESS, SETBLINK and SETROWINT: in the Block (R122 to R126) they change the trace,
`pc`, `power` (WAKEUP and SLEEP alone) and, before INIT only, `fault`; in the Device (R33, R71 to R74) the settings
only, no key register, no latch and no byte of its RAM, but that SLEEP may leave a byte without a value (R184, log
entry 16). That these commands leave the selected register is the model's reading (log entry 11). -/
def Obligations.SettingCommandsFrame : Prop :=
  ∀ (i : Instr) (s t : State),
    i = .wakeup ∨ i = .sleep ∨ (∃ l, i = .setbrightness l) ∨ (∃ r, i = .setblink r) ∨ (∃ u h, i = .setrowint u h) →
    exec i s = .next t →
    t = { s with
      power := t.power, trace := t.trace, script := t.script, device := t.device, pc := t.pc, fault := t.fault } ∧
    (i ≠ .wakeup → i ≠ .sleep → t.power = s.power) ∧ (s.inited = true → t.fault = none) ∧
    t.device.keyData = s.device.keyData ∧ t.device.intFlag = s.device.intFlag ∧
    t.device.keyLatch = s.device.keyLatch ∧ t.device.intLatch = s.device.intLatch ∧
    t.device.selected = s.device.selected ∧
    ∀ a, t.device.ram.read a = s.device.ram.read a ∨ (i = .sleep ∧ t.device.ram.read a = none)

/-- Frame of WRITE (R127): in the Block it changes the trace, `pc` and, before INIT only, `fault`; in the Device the
selected register and the RAM at the 16 addresses from `CMD_RAM` on (the model's choice of address, D26, log entry 6),
which hold either the payload or what they held. -/
def Obligations.WriteFrame : Prop :=
  ∀ s t : State, exec .write s = .next t →
    t = { s with trace := t.trace, script := t.script, device := t.device, pc := t.pc, fault := t.fault } ∧
    (s.inited = true → t.fault = none) ∧
    t.device = { s.device with ram := t.device.ram, selected := t.device.selected } ∧
    ∀ a, if s.params.cmdRam.toNat ≤ a ∧ a < s.params.cmdRam.toNat + 16 then
        t.device.ram.read a = s.device.ram.read a ∨ t.device.ram.read a = (payload s)[a - s.params.cmdRam.toNat]?
      else t.device.ram.read a = s.device.ram.read a

/-- Frame of INIT (R121, R192): it leaves `KS`, `KEYINT`, `fault`, what the Host supplies, and in the Device the pin
configuration, the key registers, the latches and every byte of the RAM outside the 16 addresses from `CMD_RAM` on
(the model's choice of address, D26, log entry 6). -/
def Obligations.InitFrame : Prop :=
  ∀ (a : BitVec 7) (s t : State), exec (.init a) s = .next t →
    t.ks = s.ks ∧ t.keyint = s.keyint ∧ t.fault = s.fault ∧ t.wire = s.wire ∧ t.ops = s.ops ∧ t.reads = s.reads ∧
    t.got = s.got ∧ t.params = s.params ∧
    t.device.rowInt = s.device.rowInt ∧ t.device.activeHigh = s.device.activeHigh ∧
    t.device.keyData = s.device.keyData ∧ t.device.intFlag = s.device.intFlag ∧
    t.device.keyLatch = s.device.keyLatch ∧ t.device.intLatch = s.device.intLatch ∧
    ∀ x, ¬(s.params.cmdRam.toNat ≤ x ∧ x < s.params.cmdRam.toNat + 16) →
      t.device.ram.read x = s.device.ram.read x

/-- Frame of GETKEYDATA and GETKEYINT (R149, R154): in the Block they change their own result register, the trace,
`pc` and, before INIT only, `fault`; no row, no flag; in the Device the key registers, the latches and the selected
register, no setting and no byte of the RAM. That a read changes no setting and no byte of the RAM whatever register
is selected is the model's reading and choice (log entries 11 and 18). -/
def Obligations.KeyScanFrame : Prop :=
  ∀ (i : Instr) (s t : State), i ∈ [Instr.getkeydata, .getkeyint] → exec i s = .next t →
    t = { s with
      ks := t.ks, keyint := t.keyint, trace := t.trace, script := t.script, device := t.device, pc := t.pc,
      fault := t.fault } ∧
    (i = .getkeydata → t.keyint = s.keyint) ∧ (i = .getkeyint → t.ks = s.ks) ∧ (s.inited = true → t.fault = none) ∧
    t.device =
      { s.device with
        keyData := t.device.keyData, intFlag := t.device.intFlag, keyLatch := t.device.keyLatch,
        intLatch := t.device.intLatch, selected := t.device.selected } ∧
    ∀ a, t.device.ram.read a = s.device.ram.read a

/-- Frame of the command bytes at the Device (R33, R71 to R75): they change the Device alone; the display-RAM command
changes its RAM, at the 16 addresses from `CMD_RAM` on (the model's choice of address, D26, log entry 6), `SYS(0)` may
leave a byte of it without a value (log entry 16), and no other does. That they change nothing of the Block and its
trace, and no key register and no latch, is the model's (log entries 2 and 11). -/
def Obligations.CommandBytesFrame : Prop :=
  ∀ (i : Instr) (s t : State), i.opName = none → exec i s = .next t →
    t = { s with device := t.device } ∧
    t.device.keyData = s.device.keyData ∧ t.device.intFlag = s.device.intFlag ∧
    t.device.keyLatch = s.device.keyLatch ∧ t.device.intLatch = s.device.intLatch ∧
    ((∀ bytes, i ≠ .ram bytes) → i ≠ .sys false → ∀ a, t.device.ram.read a = s.device.ram.read a) ∧
    (i = .sys false → ∀ a, t.device.ram.read a = s.device.ram.read a ∨ t.device.ram.read a = none) ∧
    (i ≠ .sys false → ∀ a, ¬(s.params.cmdRam.toNat ≤ a ∧ a < s.params.cmdRam.toNat + 16) →
      t.device.ram.read a = s.device.ram.read a)
end

