-- ==== Sys2Proof/Laws/Memory.lean ====
section
/-! SUPPORT. The display RAM: a read after a write, and that every write keeps the canonical form. -/

namespace Sys2Proof.Laws

open Sys2Proof.Machine

@[simp] theorem read_nil (a : Nat) : Memory.read [] a = none := rfl

theorem read_cons (b : Nat) (u : Byte) (m : Memory) (a : Nat) :
    Memory.read ((b, u) :: m) a = if a = b then some u else Memory.read m a := by
  by_cases h : a = b
  · simp [Memory.read, h]
  · have h2 : (a == b) = false := by simpa using h
    simp [Memory.read, List.lookup, h, h2]

/-- A read after a write gives the value written at that address and the old one elsewhere. -/
theorem read_write (m : Memory) (a c : Nat) (v : Byte) :
    (m.write a v).read c = if c = a then some v else m.read c := by
  induction m with
  | nil => simp [Memory.write, read_cons]
  | cons cell m ih =>
    obtain ⟨b, u⟩ := cell
    simp only [Memory.write]
    split
    · simp [read_cons]
    · split
      · simp only [read_cons]; split <;> simp_all
      · simp only [read_cons, ih]; split <;> split <;> simp_all

/-- A read after writing bytes at rising addresses gives byte `c - a` inside them and the old value outside. -/
theorem read_writeBytes (bytes : List Byte) (m : Memory) (a c : Nat) :
    (m.writeBytes a bytes).read c =
      if a ≤ c ∧ c < a + bytes.length then bytes[c - a]? else m.read c := by
  induction bytes generalizing m a with
  | nil => simp [Memory.writeBytes]
  | cons v bytes ih =>
    simp only [Memory.writeBytes, ih, read_write, List.length_cons]
    by_cases h1 : a + 1 ≤ c ∧ c < a + 1 + bytes.length
    · have h2 : a ≤ c ∧ c < a + (bytes.length + 1) := by omega
      have h3 : c - a = (c - (a + 1)) + 1 := by omega
      simp [h1, h2, h3]
    · by_cases h2 : c = a
      · subst h2; simp
      · have h3 : ¬(a ≤ c ∧ c < a + (bytes.length + 1)) := by omega
        rw [if_neg h1, if_neg h2, if_neg h3]

theorem mem_write (m : Memory) (a : Nat) (v : Byte) (c : Host.Cell) (h : c ∈ m.write a v) : c = (a, v) ∨ c ∈ m := by
  induction m with
  | nil => simpa [Memory.write] using h
  | cons cell m ih =>
    obtain ⟨b, u⟩ := cell
    simp only [Memory.write] at h
    split at h
    · simpa using h
    · split at h <;> simp only [List.mem_cons] at h ⊢
      · tauto
      · rcases h with h | h
        · tauto
        · rcases ih h with h | h <;> tauto

/-- Every cell of a memory after writing bytes is an old cell or lies among the bytes written. -/
theorem mem_writeBytes (bytes : List Byte) (m : Memory) (a : Nat) (c : Host.Cell) (h : c ∈ m.writeBytes a bytes) :
    (a ≤ c.1 ∧ c.1 < a + bytes.length) ∨ c ∈ m := by
  induction bytes generalizing m a with
  | nil => exact .inr h
  | cons v bytes ih =>
    rcases ih _ _ h with h | h
    · left; simp only [List.length_cons]; omega
    · rcases mem_write m a v c h with rfl | h
      · left; simp
      · exact .inr h

theorem wf_cons (c : Host.Cell) (m : Memory) :
    Memory.wf (c :: m) = true ↔ (∀ d ∈ m, c.1 < d.1) ∧ Memory.wf m = true := by
  simp only [Memory.wf, List.map_cons, decide_eq_true_eq, List.pairwise_cons, List.mem_map,
    forall_exists_index, and_imp, forall_apply_eq_imp_iff₂]

/-- Writing a byte keeps the canonical form. -/
theorem write_wf (m : Memory) (a : Nat) (v : Byte) (h : m.wf = true) : (m.write a v).wf = true := by
  induction m with
  | nil => simp [Memory.write, Memory.wf]
  | cons cell m ih =>
    obtain ⟨b, u⟩ := cell
    have ⟨hb, hm⟩ := (wf_cons _ _).1 h
    simp only [Memory.write]
    split
    · next hab =>
      refine (wf_cons _ _).2 ⟨fun d hd => ?_, h⟩
      rcases List.mem_cons.1 hd with rfl | hd
      · exact hab
      · exact lt_trans hab (hb d hd)
    · split
      · next hab => subst hab; exact (wf_cons _ _).2 ⟨hb, hm⟩
      · next h1 h2 =>
        refine (wf_cons _ _).2 ⟨fun d hd => ?_, ih hm⟩
        rcases mem_write m a v d hd with rfl | hd
        · show b < a; omega
        · exact hb d hd

/-- Writing bytes keeps the canonical form. -/
theorem writeBytes_wf (bytes : List Byte) (m : Memory) (a : Nat) (h : m.wf = true) :
    (m.writeBytes a bytes).wf = true := by
  induction bytes generalizing m a with
  | nil => exact h
  | cons v bytes ih => exact ih _ _ (write_wf m a v h)

/-- The display RAM is in canonical form at reset. -/
theorem reset_ram_wf : State.reset.device.ram.wf = true := rfl

/-- An oscillator-off command keeps the canonical form. -/
theorem afterSleep_wf (n : Nat) (m : Memory) (h : m.wf = true) : (m.afterSleep n).wf = true := by
  simp only [Memory.wf, decide_eq_true_eq, List.pairwise_map] at h ⊢
  exact h.filter _

/-- After an oscillator-off command an address reads as before, or holds no value. -/
theorem afterSleep_read (n : Nat) (m : Memory) (a : Nat) :
    (m.afterSleep n).read a = if Config.sleepKeepsByte n a then m.read a else none := by
  induction m with
  | nil => simp [Memory.afterSleep]
  | cons cell m ih =>
    obtain ⟨b, u⟩ := cell
    simp only [Memory.afterSleep] at ih
    simp only [Memory.afterSleep, List.filter_cons, read_cons]
    by_cases hk : Config.sleepKeepsByte n b = true <;> by_cases ha : a = b
    · subst ha; simp [hk, read_cons]
    · simp only [hk, if_true, read_cons, ha, if_false]; exact ih
    · subst ha; simp only [hk, Bool.false_eq_true, if_false, if_true]; rw [ih]; simp [hk]
    · simp only [hk, ha, Bool.false_eq_true, if_false]; exact ih

end Sys2Proof.Laws
end

