-- ==== Sys2Proof/Laws/State.lean ====
section
/-! SUPPORT. What each shared update of the state leaves in each field, true by unfolding, so that no later proof unfolds
a record update. -/

namespace Sys2Proof.Laws

open Sys2Proof.Machine

variable (s : State)

/-! ### raise -/

@[simp] theorem raise_inited (f : Fault) : (raise f s).inited = s.inited := rfl
@[simp] theorem raise_buf (f : Fault) : (raise f s).buf = s.buf := rfl
@[simp] theorem raise_reversed (f : Fault) : (raise f s).reversed = s.reversed := rfl
@[simp] theorem raise_vFlipped (f : Fault) : (raise f s).vFlipped = s.vFlipped := rfl
@[simp] theorem raise_hFlipped (f : Fault) : (raise f s).hFlipped = s.hFlipped := rfl
@[simp] theorem raise_power (f : Fault) : (raise f s).power = s.power := rfl
@[simp] theorem raise_addr (f : Fault) : (raise f s).addr = s.addr := rfl
@[simp] theorem raise_ks (f : Fault) : (raise f s).ks = s.ks := rfl
@[simp] theorem raise_keyint (f : Fault) : (raise f s).keyint = s.keyint := rfl
@[simp] theorem raise_pc (f : Fault) : (raise f s).pc = s.pc := rfl
@[simp] theorem raise_fault (f : Fault) : (raise f s).fault = some f := rfl
@[simp] theorem raise_trace (f : Fault) : (raise f s).trace = s.trace := rfl
@[simp] theorem raise_script (f : Fault) : (raise f s).script = s.script := rfl
@[simp] theorem raise_device (f : Fault) : (raise f s).device = s.device := rfl
@[simp] theorem raise_wire (f : Fault) : (raise f s).wire = s.wire := rfl
@[simp] theorem raise_ops (f : Fault) : (raise f s).ops = s.ops := rfl
@[simp] theorem raise_reads (f : Fault) : (raise f s).reads = s.reads := rfl
@[simp] theorem raise_got (f : Fault) : (raise f s).got = s.got := rfl
@[simp] theorem raise_params (f : Fault) : (raise f s).params = s.params := rfl

/-! ### complete -/

@[simp] theorem complete_inited : (complete s).inited = s.inited := rfl
@[simp] theorem complete_buf : (complete s).buf = s.buf := rfl
@[simp] theorem complete_reversed : (complete s).reversed = s.reversed := rfl
@[simp] theorem complete_vFlipped : (complete s).vFlipped = s.vFlipped := rfl
@[simp] theorem complete_hFlipped : (complete s).hFlipped = s.hFlipped := rfl
@[simp] theorem complete_power : (complete s).power = s.power := rfl
@[simp] theorem complete_addr : (complete s).addr = s.addr := rfl
@[simp] theorem complete_ks : (complete s).ks = s.ks := rfl
@[simp] theorem complete_keyint : (complete s).keyint = s.keyint := rfl
@[simp] theorem complete_pc : (complete s).pc = s.pc + 1 := rfl
@[simp] theorem complete_fault : (complete s).fault = s.fault := rfl
@[simp] theorem complete_trace : (complete s).trace = s.trace := rfl
@[simp] theorem complete_script : (complete s).script = s.script := rfl
@[simp] theorem complete_device : (complete s).device = s.device := rfl
@[simp] theorem complete_wire : (complete s).wire = s.wire := rfl
@[simp] theorem complete_ops : (complete s).ops = s.ops := rfl
@[simp] theorem complete_reads : (complete s).reads = s.reads := rfl
@[simp] theorem complete_got : (complete s).got = s.got := rfl
@[simp] theorem complete_params : (complete s).params = s.params := rfl

/-! ### busWrite -/

@[simp] theorem busWrite_inited (bytes : List Byte) (react : Device → Device) : (busWrite bytes react s).inited = s.inited := rfl
@[simp] theorem busWrite_buf (bytes : List Byte) (react : Device → Device) : (busWrite bytes react s).buf = s.buf := rfl
@[simp] theorem busWrite_reversed (bytes : List Byte) (react : Device → Device) : (busWrite bytes react s).reversed = s.reversed := rfl
@[simp] theorem busWrite_vFlipped (bytes : List Byte) (react : Device → Device) : (busWrite bytes react s).vFlipped = s.vFlipped := rfl
@[simp] theorem busWrite_hFlipped (bytes : List Byte) (react : Device → Device) : (busWrite bytes react s).hFlipped = s.hFlipped := rfl
@[simp] theorem busWrite_power (bytes : List Byte) (react : Device → Device) : (busWrite bytes react s).power = s.power := rfl
@[simp] theorem busWrite_addr (bytes : List Byte) (react : Device → Device) : (busWrite bytes react s).addr = s.addr := rfl
@[simp] theorem busWrite_ks (bytes : List Byte) (react : Device → Device) : (busWrite bytes react s).ks = s.ks := rfl
@[simp] theorem busWrite_keyint (bytes : List Byte) (react : Device → Device) : (busWrite bytes react s).keyint = s.keyint := rfl
@[simp] theorem busWrite_pc (bytes : List Byte) (react : Device → Device) : (busWrite bytes react s).pc = s.pc := rfl
@[simp] theorem busWrite_fault (bytes : List Byte) (react : Device → Device) : (busWrite bytes react s).fault = s.fault := rfl
@[simp] theorem busWrite_trace (bytes : List Byte) (react : Device → Device) : (busWrite bytes react s).trace = s.trace ++ [.tx s.addr bytes] := rfl
@[simp] theorem busWrite_script (bytes : List Byte) (react : Device → Device) : (busWrite bytes react s).script = s.script.tail := rfl
@[simp] theorem busWrite_device (bytes : List Byte) (react : Device → Device) : (busWrite bytes react s).device = if reaches s then react s.device else s.device := rfl
@[simp] theorem busWrite_wire (bytes : List Byte) (react : Device → Device) : (busWrite bytes react s).wire = s.wire := rfl
@[simp] theorem busWrite_ops (bytes : List Byte) (react : Device → Device) : (busWrite bytes react s).ops = s.ops := rfl
@[simp] theorem busWrite_reads (bytes : List Byte) (react : Device → Device) : (busWrite bytes react s).reads = s.reads := rfl
@[simp] theorem busWrite_got (bytes : List Byte) (react : Device → Device) : (busWrite bytes react s).got = s.got := rfl
@[simp] theorem busWrite_params (bytes : List Byte) (react : Device → Device) : (busWrite bytes react s).params = s.params := rfl

/-! ### busRead -/

@[simp] theorem busRead_inited (n : Nat) : (busRead n s).inited = s.inited := rfl
@[simp] theorem busRead_buf (n : Nat) : (busRead n s).buf = s.buf := rfl
@[simp] theorem busRead_reversed (n : Nat) : (busRead n s).reversed = s.reversed := rfl
@[simp] theorem busRead_vFlipped (n : Nat) : (busRead n s).vFlipped = s.vFlipped := rfl
@[simp] theorem busRead_hFlipped (n : Nat) : (busRead n s).hFlipped = s.hFlipped := rfl
@[simp] theorem busRead_power (n : Nat) : (busRead n s).power = s.power := rfl
@[simp] theorem busRead_addr (n : Nat) : (busRead n s).addr = s.addr := rfl
@[simp] theorem busRead_ks (n : Nat) : (busRead n s).ks = s.ks := rfl
@[simp] theorem busRead_keyint (n : Nat) : (busRead n s).keyint = s.keyint := rfl
@[simp] theorem busRead_pc (n : Nat) : (busRead n s).pc = s.pc := rfl
@[simp] theorem busRead_fault (n : Nat) : (busRead n s).fault = s.fault := rfl
@[simp] theorem busRead_trace (n : Nat) : (busRead n s).trace = s.trace ++ [.rx s.addr n (answer s n)] := rfl
@[simp] theorem busRead_script (n : Nat) : (busRead n s).script = s.script.tail := rfl
@[simp] theorem busRead_device (n : Nat) : (busRead n s).device = if reaches s then s.device.answered s.params s.trace (answer s n) else s.device := rfl
@[simp] theorem busRead_wire (n : Nat) : (busRead n s).wire = s.wire := rfl
@[simp] theorem busRead_ops (n : Nat) : (busRead n s).ops = s.ops := rfl
@[simp] theorem busRead_reads (n : Nat) : (busRead n s).reads = s.reads := rfl
@[simp] theorem busRead_got (n : Nat) : (busRead n s).got = s.got := rfl
@[simp] theorem busRead_params (n : Nat) : (busRead n s).params = s.params := rfl

/-! ### initState -/

@[simp] theorem initState_inited (a : BitVec 7) : (initState a s).inited = true := rfl
@[simp] theorem initState_buf (a : BitVec 7) : (initState a s).buf = Vector.replicate 8 0 := rfl
@[simp] theorem initState_reversed (a : BitVec 7) : (initState a s).reversed = false := rfl
@[simp] theorem initState_vFlipped (a : BitVec 7) : (initState a s).vFlipped = false := rfl
@[simp] theorem initState_hFlipped (a : BitVec 7) : (initState a s).hFlipped = false := rfl
@[simp] theorem initState_power (a : BitVec 7) : (initState a s).power = s.power := rfl
@[simp] theorem initState_addr (a : BitVec 7) : (initState a s).addr = a := rfl
@[simp] theorem initState_ks (a : BitVec 7) : (initState a s).ks = s.ks := rfl
@[simp] theorem initState_keyint (a : BitVec 7) : (initState a s).keyint = s.keyint := rfl
@[simp] theorem initState_pc (a : BitVec 7) : (initState a s).pc = s.pc := rfl
@[simp] theorem initState_fault (a : BitVec 7) : (initState a s).fault = s.fault := rfl
@[simp] theorem initState_trace (a : BitVec 7) : (initState a s).trace = s.trace := rfl
@[simp] theorem initState_script (a : BitVec 7) : (initState a s).script = s.script := rfl
@[simp] theorem initState_device (a : BitVec 7) : (initState a s).device = s.device := rfl
@[simp] theorem initState_wire (a : BitVec 7) : (initState a s).wire = s.wire := rfl
@[simp] theorem initState_ops (a : BitVec 7) : (initState a s).ops = s.ops := rfl
@[simp] theorem initState_reads (a : BitVec 7) : (initState a s).reads = s.reads := rfl
@[simp] theorem initState_got (a : BitVec 7) : (initState a s).got = s.got := rfl
@[simp] theorem initState_params (a : BitVec 7) : (initState a s).params = s.params := rfl

end Sys2Proof.Laws
end

