-- ==== Sys2Proof/Laws/Ops.lean ====
section
/-! SUPPORT. What each shared operation can answer, said once: the checks of a Host operation, a Host read, a fetch, and
what a write transaction does to the display RAM. -/

namespace Sys2Proof.Laws

open Sys2Proof.Machine

/-- A Host operation that executes normally. -/
theorem hostOp_ready (op : OpName) (body : State → State) (s : State) (hf : s.fault = none) (hi : s.inited = true) :
    hostOp op body s = .next (complete (body s)) := by
  simp [hostOp, hf, hi]

/-- A Host operation before `INIT`. -/
theorem hostOp_notInitialised (op : OpName) (body : State → State) (s : State) (hf : s.fault = none)
    (hi : s.inited = false) : hostOp op body s = .next (raise (.notInitialised op) s) := by
  simp [hostOp, hf, hi]

/-- A Host operation after a fault. -/
theorem hostOp_stuck (op : OpName) (body : State → State) (s : State) (f : Fault) (hf : s.fault = some f) :
    hostOp op body s = .fault f := by
  simp [hostOp, hf]

/-- Everything a Host operation can do when it answers a next state. -/
theorem hostOp_next {op : OpName} {body : State → State} {s t : State} (h : hostOp op body s = .next t) :
    s.fault = none ∧ ((s.inited = true ∧ t = complete (body s)) ∨
      (s.inited = false ∧ t = raise (.notInitialised op) s)) := by
  unfold hostOp at h
  split at h
  · cases h
  · next hf =>
    split at h <;> next hi => cases h; simp_all

/-- Everything `INIT` can do when it answers a next state. -/
theorem initOp_next {body : State → State} {s t : State} (h : initOp body s = .next t) :
    s.fault = none ∧ t = complete (body s) := by
  unfold initOp at h
  split at h
  · cases h
  · next hf => cases h; exact ⟨hf, rfl⟩

/-- Everything a Host read can do when it answers a next state. -/
theorem hostRead_next {r : ResultReg} {s t : State} (h : hostRead r s = .next t) :
    (∃ v, resultOf s r = some v ∧ t = { s with got := s.got ++ [v], reads := s.reads.tail }) ∨
    (resultOf s r = none ∧ t = raise (.readUnwritten r) s) := by
  unfold hostRead at h
  split at h
  · next v hv => cases h; exact .inl ⟨v, hv, rfl⟩
  · next hv => cases h; exact .inr ⟨hv, rfl⟩

/-- Everything a command byte can do when it answers a next state. -/
theorem deviceOp_next {react : Device → Device} {s t : State} (h : deviceOp react s = .next t) :
    t = { s with device := react s.device } := by
  cases h; rfl

/-- A failed decoding raises one of the two decode faults, or is refused. -/
theorem decodeFailed_next {e : DecodeError} {s t : State} (h : decodeFailed e s = .next t) :
    ∃ w, (e = .illegalOp w ∧ t = raise (.illegalOp w) s) ∨ (e = .reservedBits w ∧ t = raise (.reservedBits w) s) := by
  cases e with
  | illegalOp w => cases h; exact ⟨w, .inl ⟨rfl, rfl⟩⟩
  | reservedBits w => cases h; exact ⟨w, .inr ⟨rfl, rfl⟩⟩
  | noCommand bytes => cases h

/-- A transaction that is no command is rejected as such, never as an operation word. -/
theorem decodeTx_error {p : Params} {bytes : List Byte} {e : DecodeError} (h : decodeTx p bytes = .error e) :
    ∃ bs, e = .noCommand bs := by
  unfold decodeTx at h
  split at h
  · cases h; exact ⟨_, rfl⟩
  · split at h
    · split at h <;> cases h
      exact ⟨_, rfl⟩
    · split at h <;> cases h
      exact ⟨_, rfl⟩

/-- A command byte that arrived is fetched before anything else. -/
theorem fetch_wire (s : State) (bytes : List Byte) (rest : List (List Byte)) (hf : s.fault = none)
    (hw : s.wire = bytes :: rest) :
    fetch s = fetched (decodeTx s.params bytes) { s with wire := rest } s := by
  unfold fetch
  rw [hf, hw]

/-- With nothing at the Device, the read the Host makes now is served. -/
theorem fetch_reads (s : State) (r : ResultReg) (hf : s.fault = none) (hw : s.wire = [])
    (hr : dueRead s = some r) : fetch s = .stop (hostRead r s) := by
  unfold fetch
  rw [hf, hw, hr]

/-- With nothing waiting, the operation at `pc` is fetched. -/
theorem fetch_op (s : State) (op : HostOp) (hf : s.fault = none) (hw : s.wire = []) (hr : dueRead s = none)
    (ho : s.ops[s.pc]? = some op) : fetch s = fetched (decodeWord op.word) s s := by
  unfold fetch
  rw [hf, hw, hr, ho]

/-- With nothing waiting and no operation issued, nothing happens. -/
theorem fetch_idle (s : State) (hf : s.fault = none) (hw : s.wire = []) (hr : dueRead s = none)
    (ho : s.ops[s.pc]? = none) : fetch s = .stop (.next s) := by
  unfold fetch
  rw [hf, hw, hr, ho]

/-- Everything a step can do when it answers a next state: an instruction ran in the state itself or in the state with
the transaction at the Device taken off, a Host read was served, a decode fault was raised, or nothing happened. -/
theorem step_next {s t : State} (h : step s = .next t) :
    s.fault = none ∧
    ((∃ bytes rest i, s.wire = bytes :: rest ∧ decodeTx s.params bytes = .ok i ∧
        exec i { s with wire := rest } = .next t) ∨
     (∃ r, s.wire = [] ∧ dueRead s = some r ∧ hostRead r s = .next t) ∨
     (∃ op i, s.wire = [] ∧ dueRead s = none ∧ s.ops[s.pc]? = some op ∧ decodeWord op.word = .ok i ∧ exec i s = .next t) ∨
     (∃ op e, s.wire = [] ∧ dueRead s = none ∧ s.ops[s.pc]? = some op ∧ decodeWord op.word = .error e ∧
        decodeFailed e s = .next t) ∨
     (s.wire = [] ∧ dueRead s = none ∧ s.ops[s.pc]? = none ∧ t = s)) := by
  unfold step at h
  have hf : s.fault = none := by
    by_contra hne
    obtain ⟨f, hf⟩ := Option.ne_none_iff_exists'.1 hne
    simp [fetch, hf] at h
  refine ⟨hf, ?_⟩
  have hw : s.wire = [] ∨ ∃ bytes rest, s.wire = bytes :: rest := by cases s.wire <;> simp
  have hr : dueRead s = none ∨ ∃ r, dueRead s = some r := by cases dueRead s <;> simp
  have ho : s.ops[s.pc]? = none ∨ ∃ op, s.ops[s.pc]? = some op := by cases s.ops[s.pc]? <;> simp
  obtain hw | ⟨bytes, rest, hw⟩ := hw
  · obtain hr | ⟨r, hr⟩ := hr
    · obtain ho | ⟨op, ho⟩ := ho
      · rw [fetch_idle s hf hw hr ho] at h
        cases h
        exact .inr (.inr (.inr (.inr ⟨hw, hr, ho, rfl⟩)))
      · rw [fetch_op s op hf hw hr ho] at h
        cases hd : decodeWord op.word with
        | ok i => rw [hd] at h; exact .inr (.inr (.inl ⟨op, i, hw, hr, ho, hd, h⟩))
        | error e => rw [hd] at h; exact .inr (.inr (.inr (.inl ⟨op, e, hw, hr, ho, hd, h⟩)))
    · rw [fetch_reads s r hf hw hr] at h
      exact .inr (.inl ⟨r, hw, hr, h⟩)
  · rw [fetch_wire s bytes rest hf hw] at h
    left
    cases hd : decodeTx s.params bytes with
    | ok i => rw [hd] at h; exact ⟨bytes, rest, i, hw, hd, h⟩
    | error e =>
      rw [hd] at h
      obtain ⟨bs, rfl⟩ := decodeTx_error hd
      cases h

@[simp] theorem answer_length (s : State) (n : Nat) : (answer s n).length = n := by simp [answer]

/-- What the display-RAM command leaves at each address: the payload byte inside the bytes stored, the old byte
elsewhere. -/
theorem storeRam_read (p : Params) (bytes : List Byte) (d : Device) (a : Nat) :
    (d.storeRam p bytes).ram.read a =
      if p.cmdRam.toNat ≤ a ∧ a < p.cmdRam.toNat + bytes.length then bytes[a - p.cmdRam.toNat]? else d.ram.read a :=
  read_writeBytes bytes d.ram p.cmdRam.toNat a

/-- What an oscillator-off command leaves at each address of the display RAM. -/
theorem oscillatorOff_read (d : Device) (a : Nat) :
    d.oscillatorOff.ram.read a = if Config.sleepKeepsByte d.sleeps a then d.ram.read a else none :=
  afterSleep_read d.sleeps d.ram a

@[simp] theorem sys_true (d : Device) : d.sys true = { d with oscillator := true } := rfl
@[simp] theorem sys_false (d : Device) : d.sys false = d.oscillatorOff := rfl

/-- A read of the Device leaves its display RAM alone. -/
@[simp] theorem answered_ram (p : Params) (trace : List BusEvent) (bytes : List Byte) (d : Device) :
    (d.answered p trace bytes).ram = d.ram := by
  unfold Device.answered
  split <;> rfl

/-- Everything a read of the Device can change: the key data, the interrupt flag and the two latches. -/
theorem answered_frame (p : Params) (trace : List BusEvent) (bytes : List Byte) (d : Device) :
    d.answered p trace bytes =
      { d with
        keyData := (d.answered p trace bytes).keyData, intFlag := (d.answered p trace bytes).intFlag,
        keyLatch := (d.answered p trace bytes).keyLatch, intLatch := (d.answered p trace bytes).intLatch } := by
  unfold Device.answered
  split <;> rfl

/-- A read of the key data clears both latches. -/
theorem answered_keyData (p : Params) (trace : List BusEvent) (bytes : List Byte) (d : Device)
    (h : d.selected = .keyData) :
    (d.answered p trace bytes).keyLatch = false ∧ (d.answered p trace bytes).intLatch = false := by
  unfold Device.answered
  simp [h]

/-- A read of the interrupt flag leaves the key data and clears no key latch; a nonzero byte shows both latches set; the
parameter alone decides whether the read clears the interrupt latch. -/
theorem answered_intFlag (p : Params) (trace : List BusEvent) (bytes : List Byte) (d : Device)
    (h : d.selected = .intFlag) :
    (d.answered p trace bytes).keyData = d.keyData ∧
    (d.answered p trace bytes).keyLatch = (d.keyLatch || flagRegister d.intFlag bytes != 0) ∧
    (d.answered p trace bytes).intLatch =
      ((d.intLatch || flagRegister d.intFlag bytes != 0) && !p.intflagReadClears) := by
  unfold Device.answered
  simp [h]

/-- The interrupt-flag register after an answer of at least one byte. -/
@[simp] theorem flagRegister_cons (old b : Byte) (rest : List Byte) : flagRegister old (b :: rest) = b := rfl

end Sys2Proof.Laws
end

