-- ==== Sys2Proof/Laws/Exec.lean ====
section
/-! SUPPORT. Every instruction as one of the shared operations with its body, so that a claim over all instructions needs
no unfolding of `exec`. -/

namespace Sys2Proof.Laws

open Sys2Proof.Machine

/-- What a Host operation does to the state before `pc` advances; for a command byte, the Device's reaction. -/
def bodyOf : Instr → State → State
  | .setpixel col row val, s => { s with buf := setPixelStep s.buf col row val }
  | .setrow row value, s => { s with buf := putRow s.buf (rowOf row) value }
  | .setcolumn col value, s => { s with buf := setColumnRows s.buf col value }
  | .clear, s => { s with buf := Vector.replicate 8 0 }
  | .drawsprite c r, s => { s with buf := drawRows c r 0 (spritePort s).rows s.buf }
  | .drawspriteOrigin, s => { s with buf := drawRows 0 0 0 (spritePort s).rows s.buf }
  | .reverse, s => { s with reversed := !s.reversed }
  | .flipv, s => { s with vFlipped := !s.vFlipped }
  | .fliph, s => { s with hFlipped := !s.hFlipped }
  | .init a, s => initBody a s
  | .wakeup, s => wakeBody s
  | .sleep, s => sleepBody s
  | .setbrightness l, s => brightnessBody (levelOf l) s
  | .setblink r, s => blinkBody (rateOf r) s
  | .setrowint u h, s => rowintBody (boolOf u) (boolOf h) s
  | .write, s => writeBody s
  | .getkeydata, s => readKeysBody (selectKeysBody s)
  | .getkeyint, s => readIntFlagBody (selectIntFlagBody s)
  | .sys on, s => { s with device := s.device.sys on }
  | .setup on b, s => { s with device := s.device.setup on b }
  | .dim l, s => { s with device := s.device.dim l }
  | .rowint ri act, s => { s with device := s.device.rowint ri act }
  | .ram bytes, s => { s with device := s.device.storeRam s.params bytes }
  | .keys, s => { s with device := s.device.selectKeys }
  | .intflag, s => { s with device := s.device.selectIntFlag }

/-- Every Host operation but INIT makes the checks of R172 and then runs its body. -/
theorem exec_hostOp (i : Instr) (op : OpName) (s : State) (h : i.opName = some op) (hi : op ≠ .init) :
    exec i s = hostOp op (bodyOf i) s := by
  cases i <;> simp only [Instr.opName, reduceCtorEq, Option.some.injEq] at h <;> subst h <;>
    first
    | rfl
    | exact absurd rfl hi

/-- INIT runs its body unless a fault is recorded. -/
theorem exec_init (a : BitVec 7) (s : State) : exec (.init a) s = initOp (bodyOf (.init a)) s := rfl

/-- A well-formed command byte always gives the Device's reaction. -/
theorem exec_command (i : Instr) (s : State) (h : i.opName = none) (hw : i.wf = true) :
    exec i s = .next (bodyOf i s) := by
  cases i <;> simp only [Instr.opName, reduceCtorEq] at h <;> try rfl
  next bytes =>
    have hl : bytes.length = 16 := by simpa [Instr.wf] using hw
    show execRam bytes s = _
    rw [execRam, if_pos hl]
    rfl

/-- A command byte that answers a next state is well formed. -/
theorem exec_command_next {i : Instr} {s t : State} (h : i.opName = none) (he : exec i s = .next t) :
    i.wf = true ∧ t = bodyOf i s := by
  have hw : i.wf = true := by
    cases i <;> simp only [Instr.opName, reduceCtorEq] at h <;> try rfl
    next bytes =>
      by_contra hl
      have hl' : ¬bytes.length = 16 := by simpa [Instr.wf] using hl
      have : execRam bytes s = .next t := he
      rw [execRam, if_neg hl'] at this
      cases this
  refine ⟨hw, ?_⟩
  rw [exec_command i s h hw] at he
  cases he
  rfl

/-- Everything an instruction can do when it answers a next state: a Host operation ran its body and `pc` advanced, or it
raised `NotInitialised`; a command byte made the Device react. -/
theorem exec_next {i : Instr} {s t : State} (h : exec i s = .next t) :
    (∃ op, i.opName = some op ∧ s.fault = none ∧ (s.inited = true ∨ op = .init) ∧ t = complete (bodyOf i s)) ∨
    (∃ op, i.opName = some op ∧ op ≠ .init ∧ s.fault = none ∧ s.inited = false ∧ t = raise (.notInitialised op) s) ∨
    (i.opName = none ∧ i.wf = true ∧ t = bodyOf i s) := by
  cases ho : i.opName with
  | none => exact .inr (.inr ⟨rfl, exec_command_next ho h⟩)
  | some op =>
    by_cases hi : op = .init
    · subst hi
      cases i <;> simp only [Instr.opName, reduceCtorEq, Option.some.injEq] at ho
      next a =>
        obtain ⟨hf, rfl⟩ := initOp_next (exec_init a s ▸ h)
        exact .inl ⟨.init, rfl, hf, .inr rfl, rfl⟩
    · rw [exec_hostOp i op s ho hi] at h
      obtain ⟨hf, ⟨hs, rfl⟩ | ⟨hs, rfl⟩⟩ := hostOp_next h
      · exact .inl ⟨op, rfl, hf, .inl hs, rfl⟩
      · exact .inr (.inl ⟨op, rfl, hi, hf, hs, rfl⟩)

end Sys2Proof.Laws
end

