-- ==== Sys2Proof/Laws/PerInstr.lean ====
section
/-! SUPPORT. For every instruction: its encoding carries the fixed bits its row of spec/opcode_table.json gives it
(match and mask), under the default parameters for a command byte (R8, R62, R71 to R75). -/

namespace Sys2Proof.Laws

/-- The first word or byte of an encoding, with its width as the table numbers it. -/
def firstUnit : Encoded → Nat × Nat
  | .word w => (32, w.toNat)
  | .bytes bs => (8, (bs.getD 0 0).toNat)

/-- The row of the opcode table: width, match and mask, transcribed from spec/opcode_table.json. -/
def tableRow : Instr → Nat × Nat × Nat
  | .setpixel _ _ _ => (32, 0x01000000, 0xFF000000)
  | .setrow _ _ => (32, 0x02000000, 0xFF000000)
  | .setcolumn _ _ => (32, 0x03000000, 0xFFFF0000)
  | .clear => (32, 0x04000000, 0xFFFFFFFF)
  | .drawsprite _ _ => (32, 0x05000000, 0xFFFF0000)
  | .drawspriteOrigin => (32, 0x05000000, 0xFFFFFFFF)
  | .reverse => (32, 0x06000000, 0xFFFFFFFF)
  | .flipv => (32, 0x07000000, 0xFFFFFFFF)
  | .fliph => (32, 0x08000000, 0xFFFFFFFF)
  | .init _ => (32, 0x10000000, 0xFFFFFF80)
  | .wakeup => (32, 0x11000000, 0xFFFFFFFF)
  | .sleep => (32, 0x12000000, 0xFFFFFFFF)
  | .setbrightness _ => (32, 0x13000000, 0xFFFFFF00)
  | .setblink _ => (32, 0x14000000, 0xFFFFFF00)
  | .setrowint _ _ => (32, 0x15000000, 0xFFFF0000)
  | .write => (32, 0x16000000, 0xFFFFFFFF)
  | .getkeydata => (32, 0x17000000, 0xFFFFFFFF)
  | .getkeyint => (32, 0x18000000, 0xFFFFFFFF)
  | .sys _ => (8, 0x20, 0xFE)
  | .setup _ _ => (8, 0x80, 0xF8)
  | .dim _ => (8, 0xE0, 0xF0)
  | .rowint _ _ => (8, 0xA0, 0xFC)
  | .ram _ => (8, 0x00, 0xFF)
  | .keys => (8, 0x40, 0xFF)
  | .intflag => (8, 0x60, 0xFF)

/-- The encoding has the table's width, and under the table's mask it is the table's match. -/
def TableBits.Statement (i : Instr) : Prop :=
  (firstUnit (encode Params.default i)).1 = (tableRow i).1 ∧
  (firstUnit (encode Params.default i)).2 &&& (tableRow i).2.2 = (tableRow i).2.1

/-- A packed word under a packed mask is packed from its bytes under the mask's bytes. -/
theorem packWord_and (op c b a mo mc mb ma : Byte) :
    (packWord op c b a).toNat &&& (packWord mo mc mb ma).toNat
      = (packWord (op &&& mo) (c &&& mc) (b &&& mb) (a &&& ma)).toNat := by
  rw [← BitVec.toNat_and]
  congr 1
  apply BitVec.eq_of_getLsbD_eq
  intro i hi
  simp only [packWord, BitVec.getLsbD_and, BitVec.getLsbD_append]
  split <;> [rfl; skip]
  split <;> [rfl; skip]
  split <;> rfl

/-- The fixed bits of a packed word, where the mask keeps none of the bits of the operand bytes. -/
theorem packWord_fixed (op c b a mc mb ma : Byte) (hc : c &&& mc = 0) (hb : b &&& mb = 0) (ha : a &&& ma = 0) :
    (packWord op c b a).toNat &&& (packWord 0xFF mc mb ma).toNat = (packWord op 0 0 0).toNat := by
  have ho : op &&& (0xFF : Byte) = op := BitVec.and_allOnes
  rw [packWord_and, hc, hb, ha, ho]

namespace TableBits

theorem setpixel (col row val : Byte) : Statement (.setpixel col row val) :=
  ⟨rfl, packWord_fixed 0x01 val row col 0 0 0 BitVec.and_zero BitVec.and_zero BitVec.and_zero⟩

theorem setrow (row : Byte) (value : Row) : Statement (.setrow row value) :=
  ⟨rfl, packWord_fixed 0x02 row _ _ 0 0 0 BitVec.and_zero BitVec.and_zero BitVec.and_zero⟩

theorem setcolumn (col value : Byte) : Statement (.setcolumn col value) :=
  ⟨rfl, packWord_fixed 0x03 0 value col 0xFF 0 0 BitVec.zero_and BitVec.and_zero BitVec.and_zero⟩

theorem clear : Statement .clear := ⟨rfl, rfl⟩

theorem drawsprite (colOffset rowOffset : Byte) : Statement (.drawsprite colOffset rowOffset) :=
  ⟨rfl, packWord_fixed 0x05 0 rowOffset colOffset 0xFF 0 0 BitVec.zero_and BitVec.and_zero BitVec.and_zero⟩

theorem drawspriteOrigin : Statement .drawspriteOrigin := ⟨rfl, rfl⟩
theorem reverse : Statement .reverse := ⟨rfl, rfl⟩
theorem flipv : Statement .flipv := ⟨rfl, rfl⟩
theorem fliph : Statement .fliph := ⟨rfl, rfl⟩

theorem init (address : BitVec 7) : Statement (.init address) := by
  refine ⟨rfl, packWord_fixed 0x10 0 0 (address.setWidth 8) 0xFF 0xFF 0x80 rfl rfl ?_⟩
  revert address; decide

theorem wakeup : Statement .wakeup := ⟨rfl, rfl⟩
theorem sleep : Statement .sleep := ⟨rfl, rfl⟩

theorem setbrightness (level : Byte) : Statement (.setbrightness level) :=
  ⟨rfl, packWord_fixed 0x13 0 0 level 0xFF 0xFF 0 rfl rfl BitVec.and_zero⟩

theorem setblink (rate : Byte) : Statement (.setblink rate) :=
  ⟨rfl, packWord_fixed 0x14 0 0 rate 0xFF 0xFF 0 rfl rfl BitVec.and_zero⟩

theorem setrowint (useAsInterrupt activeHigh : Byte) : Statement (.setrowint useAsInterrupt activeHigh) :=
  ⟨rfl, packWord_fixed 0x15 0 activeHigh useAsInterrupt 0xFF 0 0 BitVec.zero_and BitVec.and_zero BitVec.and_zero⟩

theorem write : Statement .write := ⟨rfl, rfl⟩
theorem getkeydata : Statement .getkeydata := ⟨rfl, rfl⟩
theorem getkeyint : Statement .getkeyint := ⟨rfl, rfl⟩
theorem sys (on : Bool) : Statement (.sys on) := by cases on <;> exact ⟨rfl, rfl⟩

theorem setup (on : Bool) (blink : BitVec 2) : Statement (.setup on blink) := by
  refine ⟨rfl, ?_⟩
  revert on blink; unfold tableRow firstUnit encode; decide

theorem dim (level : BitVec 4) : Statement (.dim level) := by
  refine ⟨rfl, ?_⟩
  revert level; unfold tableRow firstUnit encode; decide

theorem rowint (ri act : Bool) : Statement (.rowint ri act) := by cases ri <;> cases act <;> exact ⟨rfl, rfl⟩
theorem ram (payload : List Byte) : Statement (.ram payload) := ⟨rfl, by simp [firstUnit, encode, tableRow, Params.default]⟩
theorem keys : Statement .keys := ⟨rfl, rfl⟩
theorem intflag : Statement .intflag := ⟨rfl, rfl⟩

end TableBits

end Sys2Proof.Laws
end

