-- ==== Sys2Proof/Laws/Rows.lean ====
section
/-! SUPPORT. Reading a buffer row after a write, a bit of a row word after a bit write, and the bits of the fields of an
operation word and of a shifted sprite row. -/

namespace Sys2Proof.Laws

open Sys2Proof.Machine

@[simp] theorem getRow_putRow_same (b : Rows) (r : BitVec 3) (v : Row) : getRow (putRow b r v) r = v := by
  simp [getRow, putRow]

theorem getRow_putRow_other (b : Rows) (r q : BitVec 3) (v : Row) (h : q ≠ r) :
    getRow (putRow b r v) q = getRow b q := by
  have hn : r.toNat ≠ q.toNat := fun e => h (BitVec.eq_of_toNat_eq e.symm)
  simp [getRow, putRow, hn]

theorem getRow_putRow (b : Rows) (r q : BitVec 3) (v : Row) :
    getRow (putRow b r v) q = if q = r then v else getRow b q := by
  by_cases h : q = r
  · subst h; simp
  · simp [h, getRow_putRow_other]

@[simp] theorem getRow_cleared (r : BitVec 3) : getRow (Vector.replicate 8 0) r = 0 := by
  simp [getRow]

/-- Two buffers are equal when they agree on every row. -/
theorem rows_ext (a b : Rows) (h : ∀ r : BitVec 3, getRow a r = getRow b r) : a = b := by
  apply Vector.ext
  intro i hi
  have := h (BitVec.ofNat 3 i)
  simpa [getRow, Nat.mod_eq_of_lt hi] using this

theorem putBit_getLsbD (v : Row) (c : BitVec 4) (on : Bool) (k : Nat) (hk : k < 16) :
    (putBit v c on).getLsbD k = if k = c.toNat then on else v.getLsbD k := by
  have hc := c.isLt
  by_cases h : k = c.toNat
  · subst h
    cases on <;> simp [putBit, hk]
  · have h1 : decide (k < c.toNat) = true ∨ k - c.toNat ≠ 0 := by
      by_cases h2 : k < c.toNat
      · exact .inl (by simp [h2])
      · exact .inr (by omega)
    cases on <;> rcases h1 with h1 | h1 <;> simp_all [putBit]

theorem shiftRow_getLsbD (v : Row) (a : Byte) (k : Nat) (hk : k < 16) :
    (shiftRow v a).getLsbD k = (decide (a.toNat ≤ k) && v.getLsbD (k - a.toNat)) := by
  have h1 : Nat.testBit 0xFFFF k = true := by
    rw [show (0xFFFF : Nat) = 2 ^ 16 - 1 from rfl, Nat.testBit_two_pow_sub_one]
    exact decide_eq_true hk
  rw [shiftRow, BitVec.getLsbD_ofNat, Nat.testBit_and, h1, Nat.testBit_shiftLeft]
  simp [hk, BitVec.getLsbD]

end Sys2Proof.Laws
end

