-- ==== Sys2Proof/Tests/Slice0.lean ====
section
/-! SUPPORT. Tests on one step each, with expected results from spec/95_test_vectors.md and the examples of the rules; the
smoke tests of well-formedness; and for each statement with hypotheses a witness that meets them. -/

namespace Sys2Proof.Tests

open Sys2Proof.Machine

/-! ### Well-formedness: one ill-formed term for each check -/

theorem test_wf_ram_payload : (Instr.ram (List.replicate 16 0)).wf = true ∧ (Instr.ram (List.replicate 15 0)).wf = false ∧
    (Instr.ram (List.replicate 17 0)).wf = false := by decide

theorem test_wf_sprite_height : (Sprite.mk (List.replicate 255 0)).wf = true ∧
    (Sprite.mk (List.replicate 256 0)).wf = false := by
  simp only [Sprite.wf, Sprite.height, List.length_replicate]
  decide

theorem test_wf_params : Params.default.wf = true := by decide

/-- A payload bit that its base already sets. -/
theorem test_wf_params_base : { Params.default with cmdDimming := 0xE1 }.wf = false := by decide

/-- A blink field that runs past bit 7. -/
theorem test_wf_params_blink : { Params.default with cmdSetup := 0, setupBlinkLsb := 7 }.wf = false := by decide

/-- A blink field over the display-on flag. -/
theorem test_wf_params_fields : { Params.default with setupOnBit := 2 }.wf = false := by decide

/-- Two commands that share a byte. -/
theorem test_wf_params_classes : { Params.default with cmdKeys := 0x21 }.wf = false := by decide

/-! ### Decoding: a word written out from its encoding for every instruction -/

-- `0x01`, val 1, row 3, col 2.
theorem test_decode_setpixel : decodeWord 0b00000001_00000001_00000011_00000010 = .ok (.setpixel 2 3 1) := rfl
-- `0x02`, row 8, value 0xABCD.
theorem test_decode_setrow : decodeWord 0b00000010_00001000_10101011_11001101 = .ok (.setrow 8 0xABCD) := rfl
-- `0x03`, reserved 0, value 0x81, col 4.
theorem test_decode_setcolumn : decodeWord 0b00000011_00000000_10000001_00000100 = .ok (.setcolumn 4 0x81) := rfl
theorem test_decode_clear : decodeWord 0b00000100_00000000_00000000_00000000 = .ok .clear := rfl
-- `0x05`, reserved 0, rowOffset 6, colOffset 4.
theorem test_decode_drawsprite : decodeWord 0b00000101_00000000_00000110_00000100 = .ok (.drawsprite 4 6) := rfl
-- The pseudo-operation's word is the word of `DRAWSPRITE S, 0, 0` (R69).
theorem test_decode_drawspriteOrigin : encode Params.default .drawspriteOrigin = .word 0x05000000 ∧
    decodeWord 0x05000000 = .ok Instr.drawspriteOrigin.core := ⟨rfl, rfl⟩
theorem test_decode_reverse : decodeWord 0b00000110_00000000_00000000_00000000 = .ok .reverse := rfl
theorem test_decode_flipv : decodeWord 0b00000111_00000000_00000000_00000000 = .ok .flipv := rfl
theorem test_decode_fliph : decodeWord 0b00001000_00000000_00000000_00000000 = .ok .fliph := rfl
-- `0x10`, 17 reserved zeros, address 0x70 in bits 6 to 0.
theorem test_decode_init : decodeWord 0b00010000_00000000_00000000_01110000 = .ok (.init 0x70) := rfl
theorem test_decode_wakeup : decodeWord 0b00010001_00000000_00000000_00000000 = .ok .wakeup := rfl
theorem test_decode_sleep : decodeWord 0b00010010_00000000_00000000_00000000 = .ok .sleep := rfl
theorem test_decode_setbrightness : decodeWord 0b00010011_00000000_00000000_00010010 = .ok (.setbrightness 18) := rfl
theorem test_decode_setblink : decodeWord 0b00010100_00000000_00000000_00000010 = .ok (.setblink 2) := rfl
-- `0x15`, reserved 0, activeHigh 0x80, useAsInterrupt 2.
theorem test_decode_setrowint : decodeWord 0b00010101_00000000_10000000_00000010 = .ok (.setrowint 2 0x80) := rfl
theorem test_decode_write : decodeWord 0b00010110_00000000_00000000_00000000 = .ok .write := rfl
theorem test_decode_getkeydata : decodeWord 0b00010111_00000000_00000000_00000000 = .ok .getkeydata := rfl
theorem test_decode_getkeyint : decodeWord 0b00011000_00000000_00000000_00000000 = .ok .getkeyint := rfl
-- `0x20 | s`.
theorem test_decode_sys : decodeTx Params.default [0b00100001] = .ok (.sys true) := rfl
-- `0x80 | on | (b << 1)`, on 1, b 2; and on 0, b 1.
theorem test_decode_setup : decodeTx Params.default [0b10000101] = .ok (.setup true 2) ∧
    decodeTx Params.default [0b10000010] = .ok (.setup false 1) := ⟨rfl, rfl⟩
-- `0xE0 | 8`.
theorem test_decode_dim : decodeTx Params.default [0b11101000] = .ok (.dim 8) := rfl
-- `0xA0 | (act << 1) | ri`, ri 1, act 0; and ri 0, act 1.
theorem test_decode_rowint : decodeTx Params.default [0b10100001] = .ok (.rowint true false) ∧
    decodeTx Params.default [0b10100010] = .ok (.rowint false true) := ⟨rfl, rfl⟩
theorem test_decode_ram : decodeTx Params.default [0, 1, 2, 3, 4, 5, 6, 7, 8, 9, 10, 11, 12, 13, 14, 15, 16] =
    .ok (.ram [1, 2, 3, 4, 5, 6, 7, 8, 9, 10, 11, 12, 13, 14, 15, 16]) := rfl
theorem test_decode_keys : decodeTx Params.default [0b01000000] = .ok .keys := rfl
theorem test_decode_intflag : decodeTx Params.default [0b01100000] = .ok .intflag := rfl

/-- The decode faults of spec/95_test_vectors.md, section 2.5. -/
theorem test_decode_faults :
    decodeWord 0x00000000 = .error (.illegalOp 0x00000000) ∧ decodeWord 0x0F000000 = .error (.illegalOp 0x0F000000) ∧
    decodeWord 0x19000000 = .error (.illegalOp 0x19000000) ∧ decodeWord 0xFF000000 = .error (.illegalOp 0xFF000000) ∧
    decodeWord 0x06010000 = .error (.reservedBits 0x06010000) ∧
    decodeWord 0x10000080 = .error (.reservedBits 0x10000080) ∧
    decodeWord 0x10010070 = .error (.reservedBits 0x10010070) ∧
    decodeWord 0x13000100 = .error (.reservedBits 0x13000100) ∧
    decodeWord 0x15010000 = .error (.reservedBits 0x15010000) := ⟨rfl, rfl, rfl, rfl, rfl, rfl, rfl, rfl, rfl⟩

/-- Transactions the Block never sends are no commands (R76, R51). -/
theorem test_decode_noCommand :
    decodeTx Params.default [] = .error (.noCommand []) ∧ decodeTx Params.default [0x90] = .error (.noCommand [0x90]) ∧
    decodeTx Params.default [0x21, 0x00] = .error (.noCommand [0x21, 0x00]) ∧
    decodeTx Params.default [0x00] = .error (.noCommand [0x00]) := ⟨rfl, rfl, rfl, rfl⟩

/-! ### States for the tests -/

/-- After `INIT 0x70`, with the trace emptied: the state spec/95_test_vectors.md calls fresh. -/
def fresh : State := { State.reset with inited := true, power := .awake, addr := 0x70, pc := 1 }

/-- The fresh state with this buffer. -/
def withBuf (b : Rows) : State := { fresh with buf := b }

/-- The fresh state with this operation next, and this sprite at the sprite port beside it. -/
def issuing (w : BitVec 32) (rows : List Row) : State :=
  { fresh with ops := [⟨0x10000070, ⟨[]⟩⟩, ⟨w, ⟨rows⟩⟩] }

/-- The fresh state in which the coming transactions reach the Device and the reads give this answer. -/
def answering (b : List Byte) : State := { fresh with script := [⟨true, []⟩, ⟨true, b⟩] }

/-- The fresh state after a fault. -/
def faulted : State := { fresh with fault := some (.illegalOp 0) }

/-- A field of the next state, where there is one. -/
def field {α : Type} (o : Host.Outcome State Fault Refusal) (f : State → α) : Option α :=
  match o with
  | .next t => some (f t)
  | .fault _ => none
  | .refused _ => none

/-! ### Buffer operations (spec/95_test_vectors.md, section 2.1) -/

theorem test_setpixel_coerces :
    field (exec (.setpixel 255 255 1) fresh) State.buf = some #v[0, 0, 0, 0, 0, 0, 0, 0x8000] := by decide

theorem test_setpixel_val_two_clears :
    field (exec (.setpixel 5 0 2) (withBuf #v[0xFFFF, 0, 0, 0, 0, 0, 0, 0])) State.buf =
      some #v[0xFFDF, 0, 0, 0, 0, 0, 0, 0] := by decide

theorem test_setrow_coerces :
    field (exec (.setrow 8 0xABCD) (withBuf #v[0xFFFF, 1, 0, 0, 0, 0, 0, 0])) State.buf =
      some #v[0xABCD, 1, 0, 0, 0, 0, 0, 0] := by decide

theorem test_setcolumn_bits :
    field (exec (.setcolumn 17 0x0F) fresh) State.buf = some #v[2, 2, 2, 2, 0, 0, 0, 0] := by decide

theorem test_setcolumn_clears :
    field (exec (.setcolumn 3 0) (withBuf (Vector.replicate 8 0xFFFF))) State.buf =
      some (Vector.replicate 8 0xFFF7) := by decide

theorem test_clear :
    field (exec .clear { withBuf (Vector.replicate 8 0xFFFF) with reversed := true }) (fun t => (t.buf, t.reversed)) =
      some (Vector.replicate 8 0, true) := by decide

theorem test_drawsprite_wraps :
    field (exec (.drawsprite 1 255) (issuing 0x0500FF01 [0x0081, 0x4000])) State.buf =
      some #v[0x8000, 0, 0, 0, 0, 0, 0, 0x0102] := by decide

theorem test_drawsprite_ten_rows :
    field (exec (.drawsprite 0 0) (issuing 0x05000000 [1, 2, 4, 8, 16, 32, 64, 128, 256, 512])) State.buf =
      some #v[0x0101, 0x0202, 4, 8, 16, 32, 64, 128] := by decide

theorem test_drawspriteOrigin :
    field (exec .drawspriteOrigin (issuing 0x05000000 [1, 2, 4])) State.buf = some #v[1, 2, 4, 0, 0, 0, 0, 0] := by
  decide

/-! ### Orientation and the pipeline (section 2.2, S1, S3) -/

theorem test_toggles :
    field (exec .reverse fresh) (fun t => (t.vFlipped, t.hFlipped, t.reversed)) = some (false, false, true) ∧
    field (exec .flipv fresh) (fun t => (t.vFlipped, t.hFlipped, t.reversed)) = some (true, false, false) ∧
    field (exec .fliph fresh) (fun t => (t.vFlipped, t.hFlipped, t.reversed)) = some (false, true, false) := by decide

theorem test_rev16 : rev16 0x0005 = 0xA000 ∧ rev16 0x1234 = 0x2C48 ∧ rev16 0x0071 = 0x8E00 ∧ rev16 0xF00F = 0xF00F := by
  decide

/-- The state of section 2.2's payload table. -/
def oriented (vf hf rv : Bool) : State :=
  { withBuf #v[0x0001, 0x0003, 0x0007, 0x0005, 0x8000, 0x1234, 0x00FF, 0xF00F] with
    vFlipped := vf, hFlipped := hf, reversed := rv }

theorem test_payload_plain : payload (oriented false false false) =
    [0x01, 0x00, 0x03, 0x00, 0x07, 0x00, 0x05, 0x00, 0x00, 0x80, 0x34, 0x12, 0xFF, 0x00, 0x0F, 0xF0] := by decide

theorem test_payload_fliph : payload (oriented false true false) =
    [0x00, 0x80, 0x00, 0xC0, 0x00, 0xE0, 0x00, 0xA0, 0x01, 0x00, 0x48, 0x2C, 0x00, 0xFF, 0x0F, 0xF0] := by decide

theorem test_payload_flipv_reverse : payload (oriented true false true) =
    [0xF0, 0x0F, 0x00, 0xFF, 0x12, 0x34, 0x80, 0x00, 0x00, 0x05, 0x00, 0x07, 0x00, 0x03, 0x00, 0x01] := by decide

theorem test_payload_all : payload (oriented true true true) =
    [0xF0, 0x0F, 0xFF, 0x00, 0x2C, 0x48, 0x00, 0x01, 0xA0, 0x00, 0xE0, 0x00, 0xC0, 0x00, 0x80, 0x00] := by decide

/-! ### Device commands (section 2.3) -/

theorem test_init_trace : field (exec (.init 0x70) State.reset) State.trace =
    some [.tx 0x70 [0x21], .tx 0x70 [0x81], .tx 0x70 [0xEF], .tx 0x70 (0 :: List.replicate 16 0)] := by decide

theorem test_init_again :
    field (exec (.init 0x71) { oriented true true true with power := .asleep, ks := #v[some 1, none, none] })
      (fun t => (t.buf, t.reversed, t.addr, t.ks)) =
      some (Vector.replicate 8 0, false, 0x71, #v[some 1, none, none]) := by decide

theorem test_wakeup : field (exec .wakeup { fresh with power := .asleep }) (fun t => (t.trace, t.power)) =
    some ([.tx 0x70 [0x21]], .awake) := by decide

theorem test_sleep : field (exec .sleep fresh) (fun t => (t.trace, t.power)) = some ([.tx 0x70 [0x20]], .asleep) := by
  decide

theorem test_setbrightness :
    field (exec (.setbrightness 18) fresh) State.trace = some [.tx 0x70 [0xE2]] ∧
    field (exec (.setbrightness 255) fresh) State.trace = some [.tx 0x70 [0xEF]] := by decide

theorem test_setblink :
    field (exec (.setblink 4) fresh) State.trace = some [.tx 0x70 [0x81]] ∧
    field (exec (.setblink 2) fresh) State.trace = some [.tx 0x70 [0x85]] := by decide

theorem test_setrowint :
    field (exec (.setrowint 2 0x80) fresh) State.trace = some [.tx 0x70 [0xA3]] ∧
    field (exec (.setrowint 0 255) fresh) State.trace = some [.tx 0x70 [0xA0]] ∧
    field (exec (.setrowint 1 0) fresh) State.trace = some [.tx 0x70 [0xA1]] := by decide

/-- The example of R127. -/
theorem test_write : field (exec .write (withBuf #v[0, 0, 0, 5, 0, 0, 0, 0])) State.trace =
    some [.tx 0x70 [0, 0, 0, 0, 0, 0, 0, 5, 0, 0, 0, 0, 0, 0, 0, 0, 0]] := by decide

/-! ### Key scan (section 2.4) -/

theorem test_getkeydata :
    field (exec .getkeydata (answering [0x01, 0x00, 0x00, 0x10, 0xFF, 0xFF])) (fun t => (t.ks, t.trace)) =
      some (#v[some 0x0001, some 0x1000, some 0xFFFF],
        [.tx 0x70 [0x40], .rx 0x70 6 [0x01, 0x00, 0x00, 0x10, 0xFF, 0xFF]]) := by decide

theorem test_getkeydata_two :
    field (exec .getkeydata
      { answering [0x01, 0x00, 0x00, 0x10, 0xFF, 0xFF] with params := { Params.default with keyWords := .two } })
      State.ks = some #v[some 0x0001, some 0x1000, none] := by decide

theorem test_getkeyint :
    field (exec .getkeyint (answering [0x80])) State.keyint = some (some true) ∧
    field (exec .getkeyint (answering [0x00])) State.keyint = some (some false) := by decide

/-! ### The Device and the Host's reads -/

/-- Payload bytes at the first and the last address of the display RAM (D26). -/
theorem test_ram_placement :
    field (exec (.ram [1, 2, 3, 4, 5, 6, 7, 8, 9, 10, 11, 12, 13, 14, 15, 16]) fresh)
      (fun t => (t.device.ram.read 0, t.device.ram.read 15, t.device.ram.read 16)) =
      some (some 1, some 16, none) := by decide

theorem test_command_bytes :
    field (exec (.sys true) fresh) (fun t => t.device.oscillator) = some true ∧
    field (exec (.sys false) fresh) (fun t => t.device.oscillator) = some false ∧
    field (exec (.setup false 3) fresh) (fun t => (t.device.displayOn, t.device.blink)) = some (false, 3) ∧
    field (exec (.dim 15) fresh) (fun t => t.device.brightness) = some 15 ∧
    field (exec (.rowint false true) fresh) (fun t => (t.device.rowInt, t.device.activeHigh)) = some (false, true) ∧
    field (exec .keys fresh) (fun t => t.device.selected) = some .keyData ∧
    field (exec .intflag fresh) (fun t => t.device.selected) = some .intFlag := by decide

/-- The rows of section 2.5 at power-on: the check order of R172, and a read of an unwritten register (R173). -/
theorem test_faults :
    field (step { State.reset with ops := [⟨0x02030005, ⟨[]⟩⟩] }) (fun t => (t.fault, t.pc)) =
      some (some (.notInitialised .setrow), 0) ∧
    field (step { State.reset with ops := [⟨0xFF000001, ⟨[]⟩⟩] }) State.fault = some (some (.illegalOp 0xFF000001)) ∧
    field (step { State.reset with ops := [⟨0x04000001, ⟨[]⟩⟩] }) State.fault =
      some (some (.reservedBits 0x04000001)) ∧
    field (step { fresh with reads := [(0, .keyint)] }) State.fault = some (some (.readUnwritten .keyint)) := by decide

/-- A read the Host makes later waits for the operations before it (log entry 7). -/
theorem test_read_waits :
    field (step { issuing 0x18000000 [] with script := [⟨true, []⟩, ⟨true, [1]⟩], reads := [(2, .keyint)] })
      (fun t => (t.keyint, t.fault, dueRead t)) = some (some true, none, some .keyint) := by decide

/-- A placed instruction is the one the next step runs, for both encodings. -/
theorem test_placed :
    field (step (State.reset.withFetchWord 32 0x10000070)) State.addr = some 0x70 ∧
    field (step (State.reset.withFetchWord 8 0x21)) (fun t => t.device.oscillator) = some true ∧
    field (step (State.reset.withFetchWord 8 0x00)) (fun t => t.device.ram.read 15) = some (some 0) := by decide

theorem test_decodeTableWord :
    decodeTableWord 32 0x01000000 = some (.setpixel 0 0 0) ∧ decodeTableWord 32 0x16000000 = some .write ∧
    decodeTableWord 8 0x80 = some (.setup false 0) ∧ decodeTableWord 8 0x00 = some (.ram (List.replicate 16 0)) := by
  decide

/-! ### Witnesses: for every statement with hypotheses, states and operands that meet them -/

/-- A word with this opcode whose must-be-zero bits are 0, and one in which the least of them is 1. -/
abbrev WordWitness (opcode : Byte) (mask good bad : BitVec 32) : Prop :=
  (opc good = opcode ∧ good &&& mask = 0) ∧ (opc bad = opcode ∧ bad &&& mask ≠ 0)

/-- The hypotheses of `FaultsAs`: a state before INIT without a fault, and a state with one. -/
abbrev FaultWitness : Prop :=
  (State.reset.fault = none ∧ State.reset.inited = false) ∧ faulted.fault = some (.illegalOp 0)

/-- Does the machine answer a next state? -/
def goesOn (o : Host.Outcome State Fault Refusal) : Bool := (field o fun _ => ()).isSome

/-- Where `goesOn` holds there is the next state. -/
theorem next_of_goesOn {o : Host.Outcome State Fault Refusal} (h : goesOn o = true) : ∃ t, o = .next t := by
  cases o with
  | next t => exact ⟨t, rfl⟩
  | fault f => cases h
  | refused r => cases h

theorem witness_PowerOnState : Instr.write.opName = some .write ∧ OpName.write ≠ .init ∧ State.reset.fault = none ∧
    State.reset.inited = false := by decide

/-- A display RAM with a byte at its first and at its last address, and WRITE next. -/
def ramAtEdges : State :=
  { issuing 0x16000000 [] with device := { fresh.device with ram := [(0, 1), (15, 2)] } }

theorem witness_StepKeepsRamForm : RamOk ramAtEdges ∧ ∃ t, step ramAtEdges = .next t :=
  ⟨⟨by decide, by decide⟩, next_of_goesOn (by decide)⟩

/-- Two key words decoded, `KS[2]` unwritten, and GETKEYDATA next. -/
def twoWords : State :=
  { issuing 0x17000000 [] with
    ks := #v[some 1, some 2, none], params := { Params.default with keyWords := .two } }

theorem blockOk_twoWords : BlockOk twoWords :=
  ⟨fun h => absurd h (by decide), by decide, fun _ => rfl, fun h => absurd h (by decide)⟩

theorem blockOk_reset : BlockOk State.reset :=
  ⟨fun _ => ⟨rfl, rfl, rfl, rfl⟩, by decide, fun h => absurd h (by decide), fun _ => rfl⟩

theorem witness_StepKeepsBlockForm :
    (BlockOk twoWords ∧ ∃ t, step twoWords = .next t) ∧ (BlockOk State.reset ∧ ∃ t, step State.reset = .next t) :=
  ⟨⟨blockOk_twoWords, next_of_goesOn (by decide)⟩, ⟨blockOk_reset, next_of_goesOn (by decide)⟩⟩

/-- A trace with one interrupt-flag read on it, and GETKEYINT next. -/
def afterRead : State :=
  { issuing 0x18000000 [] with trace := [.tx 0x70 [0x60], .rx 0x70 1 [0x80]] }

theorem witness_StepKeepsTraceForm : TraceOk afterRead.params afterRead.trace ∧ ∃ t, step afterRead = .next t := by
  refine ⟨⟨?_, ?_⟩, next_of_goesOn (by decide)⟩
  · intro a bytes h
    simp only [afterRead, List.mem_cons, List.not_mem_nil, or_false, BusEvent.tx.injEq, reduceCtorEq] at h
    obtain ⟨rfl, rfl⟩ := h
    exact .inr (.inr (.inr (.inr (.inr (.inr rfl)))))
  · intro before a n bytes after h
    rcases before with _ | ⟨x, _ | ⟨y, rest⟩⟩
    · simp [afterRead] at h
    · simp only [afterRead, List.cons_append, List.nil_append, List.cons.injEq, BusEvent.rx.injEq] at h
      obtain ⟨rfl, ⟨rfl, rfl, rfl⟩, rfl⟩ := h
      exact ⟨rfl, .inr ⟨rfl, [], rfl⟩⟩
    · simp [afterRead] at h

theorem witness_StepAppendsToTrace : ∃ t, step afterRead = .next t := next_of_goesOn (by decide)

theorem witness_OnlyInitInitialises :
    State.reset.fault = none ∧ ((∀ a, Instr.write ≠ .init a) ∧ ∃ t, exec .write fresh = .next t) ∧
    (Instr.write.opName = some .write ∧ OpName.write ≠ .init ∧ State.reset.inited = false) :=
  ⟨rfl, ⟨by simp, next_of_goesOn (by decide)⟩, by decide⟩

theorem witness_StepRunsDecoded :
    (Issues (issuing 0x16000000 []) ⟨0x16000000, ⟨[]⟩⟩ ∧ decodeWord 0x16000000 = .ok .write) ∧
    ({ fresh with wire := [[0x21], [0x60]] }.fault = none ∧ decodeTx fresh.params [0x21] = .ok (.sys true)) ∧
    ({ fresh with wire := [[0x90]] }.fault = none ∧ decodeTx fresh.params [0x90] = .error (.noCommand [0x90])) ∧
    (fresh.fault = none ∧ fresh.wire = [] ∧ dueRead fresh = none ∧ fresh.ops[fresh.pc]? = none) := by decide

theorem witness_PlacedInstructionRuns :
    fresh.fault = none ∧ decodeWord (BitVec.ofNat 32 0x16000000) = .ok .write ∧
    decodeTx fresh.params (tableTx fresh.params (BitVec.ofNat 8 0)) = .ok (.ram (List.replicate 16 0)) := by decide

/-- An opcode that a search of the map does not find is unassigned. -/
theorem unassigned {w : BitVec 32} (h : opcodeMap.all (fun row => opc w != row.1) = true) :
    ∀ row ∈ opcodeMap, opc w ≠ row.1 := fun row hr => by simpa using List.all_eq_true.1 h row hr

/-- The edges of the unassigned opcodes, an assigned opcode with and without a reserved bit, and one with no reserved
bits. -/
theorem witness_DecoderIsTotalInOrder :
    (∀ row ∈ opcodeMap, opc 0x00000000 ≠ row.1) ∧ (∀ row ∈ opcodeMap, opc 0x09000000 ≠ row.1) ∧
    (∀ row ∈ opcodeMap, opc 0x19000000 ≠ row.1) ∧ (∀ row ∈ opcodeMap, opc 0xFF000000 ≠ row.1) ∧
    ((0x10, 0x00FFFF80) ∈ opcodeMap ∧ WordWitness 0x10 0x00FFFF80 0x1000007F 0x10000080) ∧
    ((0x01, 0) ∈ opcodeMap ∧ opc 0x01FFFFFF = 0x01 ∧ (0x01FFFFFF : BitVec 32) &&& 0 = 0) :=
  ⟨unassigned rfl, unassigned rfl, unassigned rfl, unassigned rfl, by decide, by decide⟩

theorem witness_FaultIsStickyAndPrecise :
    faulted.fault = some (.illegalOp 0) ∧ Instr.write.opName = some .write ∧ ∃ t, step fresh = .next t :=
  ⟨rfl, rfl, next_of_goesOn (by decide)⟩

theorem witness_ChecksRunInOrder :
    faulted.fault = some (.illegalOp 0) ∧ Issues (issuing 0x16000000 []) ⟨0x16000000, ⟨[]⟩⟩ ∧
    Issues { State.reset with ops := [⟨0x02030005, ⟨[]⟩⟩] } ⟨0x02030005, ⟨[]⟩⟩ := by decide

theorem witness_PcCountsCompletedOperations :
    (Instr.write.opName = some .write ∧ ∃ t, exec .write fresh = .next t) ∧
    ((Instr.dim 3).opName = none ∧ ∃ t, exec (.dim 3) fresh = .next t) ∧ ∃ t, step fresh = .next t :=
  ⟨⟨rfl, next_of_goesOn (by decide)⟩, ⟨rfl, next_of_goesOn (by decide)⟩, next_of_goesOn (by decide)⟩

theorem witness_NoOperandOrBusOutcomeFaults :
    ((Instr.setpixel 255 255 255).opName = some .setpixel ∧ fresh.fault = none ∧ fresh.inited = true) ∧
    ((Instr.init 0x7F).opName = some .init ∧ State.reset.fault = none) := by decide

theorem witness_DecodeOfEncode : Params.default.wf = true ∧ (Instr.ram (List.replicate 16 0xFF)).wf = true ∧
    (Instr.setrow 255 0xFFFF).wf = true := by decide

theorem witness_DecodedTransactionEncodesBack :
    Params.default.wf = true ∧ decodeTx Params.default [0x87] = .ok (.setup true 3) := by decide

/-- The default layout, and one with the fields of the SETUP byte at its other end. -/
theorem witness_CommandByteLayout : Params.default.wf = true ∧
    { Params.default with cmdSetup := 0x10, setupOnBit := 5, setupBlinkLsb := 6 }.wf = true := by decide

theorem witness_SetPixelRule : opc 0x01FFFFFF = 0x01 ∧ FaultWitness ∧ Ready fresh ∧ 7 < 8 ∧ 15 < 16 := by decide

theorem witness_SetRowRule : opc 0x02FF8001 = 0x02 ∧ FaultWitness ∧ Ready fresh := by decide

theorem witness_SetColumnRule : WordWitness 0x03 0x00FF0000 0x0300FFFF 0x03010000 ∧ FaultWitness ∧ Ready fresh := by
  decide

theorem witness_ClearRule : WordWitness 0x04 0x00FFFFFF 0x04000000 0x04000001 ∧ FaultWitness ∧ Ready fresh := by decide

theorem witness_DrawSpriteRule : WordWitness 0x05 0x00FF0000 0x0500FFFF 0x05010000 ∧ FaultWitness ∧
    Ready (issuing 0x0500FF01 [0x0081, 0x4000]) ∧
    (spritePort (issuing 0x0500FF01 [0x0081, 0x4000])).rows[1]? = some 0x4000 := by decide

theorem witness_OffsetFreeDrawSprite : Ready (issuing 0x05000000 [1, 2, 4]) ∧
    (spritePort (issuing 0x05000000 [1, 2, 4])).rows[2]? = some 4 := by decide

/-- The pixel 0 and the pixel 1 before the pair (S7). -/
theorem witness_SetThenClearPixel : Ready fresh ∧ pixel fresh.buf 0 3 = false ∧
    Ready (withBuf #v[8, 0, 0, 0, 0, 0, 0, 0]) ∧ pixel (withBuf #v[8, 0, 0, 0, 0, 0, 0, 0]).buf 0 3 = true := by decide

/-- A sprite of no rows and one of 8. -/
theorem witness_SpriteOnClearedBuffer :
    (Ready fresh ∧ (∀ r : Fin 8, fresh.buf[r] = 0) ∧ (spritePort fresh).height ≤ 8) ∧
    (Ready (issuing 0x05000000 [1, 2, 3, 4, 5, 6, 7, 8]) ∧
      (∀ r : Fin 8, (issuing 0x05000000 [1, 2, 3, 4, 5, 6, 7, 8]).buf[r] = 0) ∧
      (spritePort (issuing 0x05000000 [1, 2, 3, 4, 5, 6, 7, 8])).height ≤ 8) := by decide

theorem witness_TogglesRule :
    WordWitness 0x06 0x00FFFFFF 0x06000000 0x06010000 ∧ WordWitness 0x07 0x00FFFFFF 0x07000000 0x07000001 ∧
    WordWitness 0x08 0x00FFFFFF 0x08000000 0x08800000 ∧ FaultWitness ∧ Ready fresh ∧
    Instr.reverse ∈ [Instr.reverse, .flipv, .fliph] := by decide

theorem witness_TogglePairKeepsOutput : Instr.fliph ∈ [Instr.fliph, .flipv, .reverse] ∧
    Ready (oriented false true true) := by decide

theorem witness_ClearThenWriteSendsZeros : Ready (oriented true true true) := by decide

theorem witness_InitRule : WordWitness 0x10 0x00FFFF80 0x1000007F 0x10000080 ∧
    faulted.fault = some (.illegalOp 0) ∧ State.reset.fault = none ∧ fresh.fault = none := by decide

theorem witness_InitReachesDevice :
    { State.reset with script := List.replicate 4 ⟨true, []⟩ }.fault = none ∧
    ∀ k, k < 4 → ∃ o, { State.reset with script := List.replicate 4 ⟨true, []⟩ }.script[k]? = some o ∧
      o.reached = true := by
  refine ⟨rfl, fun k hk => ⟨⟨true, []⟩, ?_, rfl⟩⟩
  show (List.replicate 4 (⟨true, []⟩ : BusOutcome))[k]? = _
  rw [List.getElem?_replicate, if_pos hk]

theorem witness_WakeAndSleepRule : WordWitness 0x11 0x00FFFFFF 0x11000000 0x11000001 ∧
    WordWitness 0x12 0x00FFFFFF 0x12000000 0x12800000 ∧ FaultWitness ∧ Ready fresh ∧
    Ready { fresh with power := .asleep } := by decide

theorem witness_SetBrightnessRule : WordWitness 0x13 0x00FFFF00 0x130000FF 0x13000100 ∧ FaultWitness ∧
    Ready fresh := by decide

theorem witness_SetBlinkRule : WordWitness 0x14 0x00FFFF00 0x140000FF 0x14010000 ∧ FaultWitness ∧ Ready fresh := by
  decide

theorem witness_SetRowIntRule : WordWitness 0x15 0x00FF0000 0x1500FFFF 0x15010000 ∧ FaultWitness ∧ Ready fresh := by
  decide

theorem witness_WriteRule : WordWitness 0x16 0x00FFFFFF 0x16000000 0x16000001 ∧ FaultWitness ∧
    Ready (oriented true false true) := by decide

theorem witness_GetKeyDataRule : WordWitness 0x17 0x00FFFFFF 0x17000000 0x17000001 ∧ FaultWitness ∧
    (Ready (answering [1, 0, 0, 0x10, 0xFF, 0xFF]) ∧ reaches (answering [1, 0, 0, 0x10, 0xFF, 0xFF]) = true ∧
      reaches (selectKeysBody (answering [1, 0, 0, 0x10, 0xFF, 0xFF])) = true) ∧ Ready twoWords := by decide

/-- A set interrupt latch, and an interrupt-flag read answered with this byte, which clears the latch or does not. -/
def flagRead (clears : Bool) (b : Byte) : State :=
  { answering [b] with
    params := { Params.default with intflagReadClears := clears }
    device := { Device.reset with keyLatch := false, intLatch := true } }

/-- The parameter alone decides whether the read clears the latch: also where the answer is 0 (R49, R153). -/
theorem test_intflag_latch :
    field (exec .getkeyint (flagRead false 0)) (fun t => (t.keyint, t.device.intLatch)) = some (some false, true) ∧
    field (exec .getkeyint (flagRead true 0x80)) (fun t => (t.keyint, t.device.intLatch)) = some (some true, false) := by
  decide

/-- A nonzero flag byte shows that the Device has latched a key event; the read clears no key latch (R178, R153). -/
theorem test_intflag_pending :
    field (exec .getkeyint (flagRead true 0x80)) (fun t => t.device.keyLatch) = some true ∧
    field (exec .getkeyint (flagRead false 0)) (fun t => t.device.keyLatch) = some false := by decide

theorem witness_GetKeyIntRule : WordWitness 0x18 0x00FFFFFF 0x18000000 0x18010000 ∧ FaultWitness ∧
    (∀ c, Ready (flagRead c 0x80) ∧ (flagRead c 0x80).params.intflagReadClears = c ∧ reaches (flagRead c 0x80) = true ∧
      reaches (selectIntFlagBody (flagRead c 0x80)) = true ∧ (flagRead c 0x80).device.intLatch = true) := by decide

theorem witness_EveryAnswerIsPossible :
    (Ready (answering [1, 2, 3, 4, 5, 6]) ∧ [(1 : Byte), 2, 3, 4, 5, 6].length = 6 ∧
      (answering [1, 2, 3, 4, 5, 6]).script = ⟨true, []⟩ :: ⟨true, [1, 2, 3, 4, 5, 6]⟩ :: []) ∧
    (Ready (answering [0]) ∧ (answering [0]).script = ⟨true, []⟩ :: ⟨true, [0]⟩ :: []) := by decide

theorem witness_KeyReadsClearLatches :
    (Ready (answering [0x80]) ∧ (answering [0x80]).script = ⟨true, []⟩ :: ⟨true, [0x80]⟩ :: []) ∧
    (∀ c, Ready (flagRead c 0) ∧ (flagRead c 0).script = ⟨true, []⟩ :: ⟨true, [0]⟩ :: [] ∧
      (flagRead c 0).params.intflagReadClears = c) := by decide

theorem witness_KeyScanIgnoresDisplay :
    (Instr.getkeydata ∈ [Instr.getkeydata, .getkeyint] ∧ ∃ t, exec .getkeydata fresh = .next t) ∧
    (Instr.getkeyint ∈ [Instr.getkeydata, .getkeyint] ∧ ∃ t, exec .getkeyint fresh = .next t) :=
  ⟨⟨by decide, next_of_goesOn (by decide)⟩, ⟨by decide, next_of_goesOn (by decide)⟩⟩

/-- The Host reads `KS[2]`, due now, with two words decoded. -/
def readsLast : State := { twoWords with reads := [(1, .ks 2)] }

theorem witness_HostReadRule :
    (readsLast.fault = none ∧ readsLast.wire = [] ∧ readsLast.reads = (1, .ks 2) :: [] ∧ 1 ≤ readsLast.pc) ∧
    ({ fresh with reads := [(0, .keyint)] }.fault = none ∧ { fresh with reads := [(0, .keyint)] }.wire = []) ∧
    (BlockOk readsLast ∧ readsLast.params.keyWords = .two) :=
  ⟨by decide, by decide, blockOk_twoWords, rfl⟩

/-- A payload of 16 bytes, and one of 15. -/
theorem witness_CommandBytesAtDevice :
    (List.replicate 16 (0xFF : Byte)).length = 16 ∧ (List.replicate 15 (0xFF : Byte)).length ≠ 16 := by decide

theorem witness_BlockCommandsActOnDevice :
    (Ready (answering []) ∧ reaches (answering []) = true) ∧
    (Ready { fresh with script := [⟨false, []⟩] } ∧ reaches { fresh with script := [⟨false, []⟩] } = false) := by decide

theorem witness_PowerGatesNothing : ∃ t, exec .sleep { fresh with power := .asleep } = .next t :=
  next_of_goesOn (by decide)

theorem witness_BusFailureIsInvisible :
    [⟨false, []⟩, ⟨false, [0x80]⟩].map BusOutcome.answer = (answering [0x80]).script.map BusOutcome.answer ∧
    ∃ t, exec .getkeyint (answering [0x80]) = .next t := ⟨rfl, next_of_goesOn (by decide)⟩

theorem witness_OnlyWriteShowsTheBuffer :
    (Instr.clear ≠ .write ∧ ∃ t, exec .clear (oriented true false true) = .next t) ∧
    ∃ t, exec .write (oriented true false true) = .next t :=
  ⟨⟨by decide, next_of_goesOn (by decide)⟩, next_of_goesOn (by decide)⟩

theorem witness_BufferOperationsFrame :
    (∃ t, exec (.setpixel 255 255 1) fresh = .next t) ∧ (fresh.inited = true ∧ State.reset.inited = false) ∧
    ∃ t, exec (.setpixel 255 255 1) State.reset = .next t :=
  ⟨next_of_goesOn (by decide), ⟨rfl, rfl⟩, next_of_goesOn (by decide)⟩

theorem witness_TogglesFrame : Instr.flipv ∈ [Instr.reverse, .flipv, .fliph] ∧ (∃ t, exec .flipv fresh = .next t) ∧
    Instr.flipv ≠ .reverse ∧ Instr.flipv ≠ .fliph ∧ fresh.inited = true :=
  ⟨by decide, next_of_goesOn (by decide), by decide, by decide, rfl⟩

theorem witness_SettingCommandsFrame : (∃ t, exec (.setrowint 1 1) fresh = .next t) ∧
    Instr.setrowint 1 1 ≠ .wakeup ∧ Instr.setrowint 1 1 ≠ .sleep ∧ fresh.inited = true ∧
    (∃ t, exec .sleep ramAtEdges = .next t) ∧ ramAtEdges.device.ram.read 15 = some 2 :=
  ⟨next_of_goesOn (by decide), by decide, by decide, rfl, next_of_goesOn (by decide), by decide⟩

theorem witness_WriteFrame : (∃ t, exec .write ramAtEdges = .next t) ∧ ramAtEdges.inited = true :=
  ⟨next_of_goesOn (by decide), rfl⟩

/-- An address just past the display RAM. -/
theorem witness_InitFrame : (∃ t, exec (.init 0x7F) ramAtEdges = .next t) ∧
    ¬(ramAtEdges.params.cmdRam.toNat ≤ 16 ∧ 16 < ramAtEdges.params.cmdRam.toNat + 16) :=
  ⟨next_of_goesOn (by decide), by decide⟩

theorem witness_KeyScanFrame :
    (Instr.getkeydata ∈ [Instr.getkeydata, .getkeyint] ∧ ∃ t, exec .getkeydata fresh = .next t) ∧
    (Instr.getkeyint ∈ [Instr.getkeydata, .getkeyint] ∧ ∃ t, exec .getkeyint fresh = .next t) ∧ fresh.inited = true :=
  ⟨⟨by decide, next_of_goesOn (by decide)⟩, ⟨by decide, next_of_goesOn (by decide)⟩, rfl⟩

theorem witness_CommandBytesFrame :
    ((Instr.ram (List.replicate 16 0)).opName = none ∧ ∃ t, exec (.ram (List.replicate 16 0)) ramAtEdges = .next t) ∧
    (Instr.keys.opName = none ∧ (∃ t, exec .keys ramAtEdges = .next t) ∧ (∀ bytes, Instr.keys ≠ .ram bytes) ∧
      Instr.keys ≠ .sys false) ∧
    ((Instr.sys false).opName = none ∧ ∃ t, exec (.sys false) ramAtEdges = .next t) ∧
    ¬(ramAtEdges.params.cmdRam.toNat ≤ 16 ∧ 16 < ramAtEdges.params.cmdRam.toNat + 16) :=
  ⟨⟨rfl, next_of_goesOn (by decide)⟩, ⟨rfl, next_of_goesOn (by decide), by simp, by decide⟩,
    ⟨rfl, next_of_goesOn (by decide)⟩, by decide⟩

end Sys2Proof.Tests
end

section
/-! PROOFS of the family 00_scope: the trace only grows, and the vectors of the decoder and of the command bytes. -/

namespace Sys2Proof.Proofs

open Sys2Proof.Machine Sys2Proof.Laws

/-! ### What every step leaves of the trace, the operation sequence and the parameters -/

/-- From `s` to `t` the trace at most grew at its end (R48), and the Host's operation sequence (R55) and the parameters
(R8) stayed. -/
def OnlyAppends (s t : State) : Prop := s.trace <+: t.trace ∧ t.ops = s.ops ∧ t.params = s.params

theorem OnlyAppends.of_eq {s t : State} (htrace : t.trace = s.trace) (hops : t.ops = s.ops)
    (hparams : t.params = s.params) : OnlyAppends s t := ⟨htrace ▸ List.prefix_rfl, hops, hparams⟩

theorem OnlyAppends.refl (s : State) : OnlyAppends s s := .of_eq rfl rfl rfl

theorem OnlyAppends.trans {s t u : State} (hst : OnlyAppends s t) (htu : OnlyAppends t u) : OnlyAppends s u := by
  obtain ⟨htrace, hops, hparams⟩ := hst
  obtain ⟨htrace', hops', hparams'⟩ := htu
  exact ⟨htrace.trans htrace', hops'.trans hops, hparams'.trans hparams⟩

theorem busWrite_onlyAppends (bytes : List Byte) (react : Device → Device) (s : State) :
    OnlyAppends s (busWrite bytes react s) := ⟨List.prefix_append .., rfl, rfl⟩

theorem raise_onlyAppends (f : Fault) (s : State) : OnlyAppends s (raise f s) := .of_eq rfl rfl rfl

theorem complete_onlyAppends (s : State) : OnlyAppends s (complete s) := .of_eq rfl rfl rfl

theorem wakeBody_onlyAppends (s : State) : OnlyAppends s (wakeBody s) := ⟨List.prefix_append .., rfl, rfl⟩

theorem sleepBody_onlyAppends (s : State) : OnlyAppends s (sleepBody s) := ⟨List.prefix_append .., rfl, rfl⟩

theorem readKeysBody_onlyAppends (s : State) : OnlyAppends s (readKeysBody s) :=
  ⟨List.prefix_append .., rfl, rfl⟩

theorem readIntFlagBody_onlyAppends (s : State) : OnlyAppends s (readIntFlagBody s) :=
  ⟨List.prefix_append .., rfl, rfl⟩

/-- The four transactions of INIT follow one another on the trace (R121). -/
theorem initBody_onlyAppends (a : BitVec 7) (s : State) : OnlyAppends s (initBody a s) :=
  have hopen : OnlyAppends s (initState a s) := .of_eq rfl rfl rfl
  have hwake := hopen.trans (wakeBody_onlyAppends _)
  have hblink := hwake.trans (busWrite_onlyAppends ..)
  have hdim := hblink.trans (busWrite_onlyAppends ..)
  hdim.trans (busWrite_onlyAppends ..)

/-- The buffer operations, the toggles and the command bytes put nothing on the trace; every other body is a chain of
transactions. -/
theorem bodyOf_onlyAppends (i : Instr) (s : State) : OnlyAppends s (bodyOf i s) := by
  cases i with
  | init a => exact initBody_onlyAppends a s
  | wakeup => exact wakeBody_onlyAppends s
  | sleep => exact sleepBody_onlyAppends s
  | setbrightness _ | setblink _ | setrowint _ _ | write => exact busWrite_onlyAppends ..
  | getkeydata => exact (busWrite_onlyAppends ..).trans (readKeysBody_onlyAppends _)
  | getkeyint => exact (busWrite_onlyAppends ..).trans (readIntFlagBody_onlyAppends _)
  | _ => exact .of_eq rfl rfl rfl

theorem exec_onlyAppends {i : Instr} {s t : State} (h : exec i s = .next t) : OnlyAppends s t := by
  obtain ⟨_, _, _, _, rfl⟩ | ⟨_, _, _, _, _, rfl⟩ | ⟨_, _, rfl⟩ := exec_next h
  · exact (bodyOf_onlyAppends i s).trans (complete_onlyAppends _)
  · exact raise_onlyAppends _ s
  · exact bodyOf_onlyAppends i s

theorem hostRead_onlyAppends {r : ResultReg} {s t : State} (h : hostRead r s = .next t) : OnlyAppends s t := by
  obtain ⟨_, _, rfl⟩ | ⟨_, rfl⟩ := hostRead_next h
  · exact .of_eq rfl rfl rfl
  · exact raise_onlyAppends _ s

theorem decodeFailed_onlyAppends {e : DecodeError} {s t : State} (h : decodeFailed e s = .next t) :
    OnlyAppends s t := by
  obtain ⟨_, ⟨_, rfl⟩ | ⟨_, rfl⟩⟩ := decodeFailed_next h <;> exact raise_onlyAppends _ s

theorem step_onlyAppends {s t : State} (h : step s = .next t) : OnlyAppends s t := by
  obtain ⟨_, ⟨_, rest, _, _, _, hrun⟩ | ⟨_, _, _, hread⟩ | ⟨_, _, _, _, _, _, hrun⟩ |
    ⟨_, _, _, _, _, _, hfail⟩ | ⟨_, _, _, rfl⟩⟩ := step_next h
  · have htaken : OnlyAppends s { s with wire := rest } := .of_eq rfl rfl rfl
    exact htaken.trans (exec_onlyAppends hrun)
  · exact hostRead_onlyAppends hread
  · exact exec_onlyAppends hrun
  · exact decodeFailed_onlyAppends hfail
  · exact .refl _

/-- Settles O6: every step only appends to the trace. -/
theorem stepAppendsToTrace : Obligations.StepAppendsToTrace := fun _ _ h => step_onlyAppends h

/-! ### Vectors of the spec -/

/-- Settles O17: the decoder computes each vector, the two rejected words last. -/
theorem specWordsDecode : Obligations.SpecWordsDecode :=
  ⟨rfl, rfl, rfl, rfl, rfl, rfl, rfl, rfl, rfl, rfl, rfl, rfl⟩

/-- Settles O18: each command byte is its base with the payload bits ORed in, computed at the default parameters. -/
theorem defaultCommandBytes : Obligations.DefaultCommandBytes :=
  ⟨rfl, rfl, rfl, rfl, rfl, rfl, rfl, rfl, rfl, rfl, rfl⟩

end Sys2Proof.Proofs
end

section
/-! PROOFS of the family 10_state: the invariants of the state, what an instruction and a step can do to it, the
Device's reactions and the frames. The facts that several proofs share stand first; the statements are settled after
them. -/

namespace Sys2Proof.Proofs

open Sys2Proof.Machine Sys2Proof.Laws

/-! ### What an instruction answers -/

theorem eq_init_of_opName {i : Instr} (h : i.opName = some .init) : ∃ a, i = .init a := by
  cases i with
  | init a => exact ⟨a, rfl⟩
  | _ => cases h

theorem wf_of_opName {i : Instr} {op : OpName} (h : i.opName = some op) : i.wf = true := by
  cases i with
  | ram _ => cases h
  | _ => rfl

/-- An operation that passes the checks of R172 completes. -/
theorem exec_ready {i : Instr} {op : OpName} {s : State} (ho : i.opName = some op) (hf : s.fault = none)
    (hi : s.inited = true ∨ op = .init) : exec i s = .next (complete (bodyOf i s)) := by
  by_cases hop : op = .init
  · subst hop
    obtain ⟨a, rfl⟩ := eq_init_of_opName ho
    simp [exec_init, initOp, hf]
  · rw [exec_hostOp i op s ho hop, hostOp_ready op _ s hf (hi.resolve_right hop)]

/-- Every operation but INIT requires an initialised Block (R26). -/
theorem exec_notInitialised {i : Instr} {op : OpName} {s : State} (ho : i.opName = some op) (hop : op ≠ .init)
    (hf : s.fault = none) (hi : s.inited = false) : exec i s = .next (raise (.notInitialised op) s) := by
  rw [exec_hostOp i op s ho hop, hostOp_notInitialised op _ s hf hi]

/-- After a fault no operation has a step (R172). -/
theorem exec_stuck {i : Instr} {op : OpName} {s : State} {f : Fault} (ho : i.opName = some op)
    (hf : s.fault = some f) : exec i s = .fault f := by
  by_cases hop : op = .init
  · subst hop
    obtain ⟨a, rfl⟩ := eq_init_of_opName ho
    simp [exec_init, initOp, hf]
  · rw [exec_hostOp i op s ho hop, hostOp_stuck op _ s f hf]

/-- Everything a Host operation can do when it answers a next state. -/
theorem exec_op_next {i : Instr} {op : OpName} {s t : State} (ho : i.opName = some op) (h : exec i s = .next t) :
    s.fault = none ∧ (t = complete (bodyOf i s) ∨ (s.inited = false ∧ t = raise (.notInitialised op) s)) := by
  obtain ⟨_, _, hf, _, ht⟩ | ⟨op', ho', _, hf, hi, ht⟩ | ⟨hnone, _⟩ := exec_next h
  · exact ⟨hf, .inl ht⟩
  · obtain rfl : op' = op := Option.some.inj (ho'.symm.trans ho)
    exact ⟨hf, .inr ⟨hi, ht⟩⟩
  · rw [hnone] at ho; cases ho

/-- Two states with the same `fault` and `inited` pass or fail the checks of R172 alike, so an instruction relates what
it answers in them as soon as its body does. -/
theorem exec_related {i : Instr} {s s' t : State} {R : State → State → Prop} (h : exec i s = .next t)
    (hfault : s'.fault = s.fault) (hinited : s'.inited = s.inited) (hbody : R (bodyOf i s) (bodyOf i s'))
    (hcomplete : R (complete (bodyOf i s)) (complete (bodyOf i s'))) (hraise : ∀ f, R (raise f s) (raise f s')) :
    ∃ u, exec i s' = .next u ∧ R t u := by
  obtain ⟨_, ho, hf, hi, rfl⟩ | ⟨_, ho, hop, hf, hi, rfl⟩ | ⟨ho, hw, rfl⟩ := exec_next h
  · exact ⟨_, exec_ready ho (hfault.trans hf) (hinited ▸ hi), hcomplete⟩
  · exact ⟨_, exec_notInitialised ho hop (hfault.trans hf) (hinited.trans hi), hraise _⟩
  · exact ⟨_, exec_command i s' ho hw, hbody⟩

/-! ### What a body leaves of the Block -/

@[simp] theorem bodyOf_fault (i : Instr) (s : State) : (bodyOf i s).fault = s.fault := by cases i <;> rfl

@[simp] theorem bodyOf_pc (i : Instr) (s : State) : (bodyOf i s).pc = s.pc := by cases i <;> rfl

theorem bodyOf_inited {i : Instr} (hi : ∀ a, i ≠ .init a) (s : State) : (bodyOf i s).inited = s.inited := by
  cases i with
  | init a => exact absurd rfl (hi a)
  | _ => rfl

/-- Whichever operation completes, the Block is initialised after it (R26, R35). -/
theorem bodyOf_completed_inited {i : Instr} {op : OpName} {s : State} (ho : i.opName = some op)
    (hi : s.inited = true ∨ op = .init) : (bodyOf i s).inited = true := by
  by_cases hop : op = .init
  · subst hop
    obtain ⟨a, rfl⟩ := eq_init_of_opName ho
    rfl
  · have hnot : ∀ a, i ≠ .init a := by
      rintro a rfl
      exact hop (Option.some.inj ho).symm
    rw [bodyOf_inited hnot, hi.resolve_right hop]

/-- Only GETKEYDATA writes the snapshot (R28). -/
theorem bodyOf_ks {i : Instr} (hi : i ≠ .getkeydata) (s : State) : (bodyOf i s).ks = s.ks := by
  cases i with
  | getkeydata => exact absurd rfl hi
  | _ => rfl

/-- A command byte acts on the Device alone (log entry 2). -/
theorem bodyOf_command {i : Instr} (ho : i.opName = none) (s : State) :
    bodyOf i s = { s with device := (bodyOf i s).device } := by
  cases i with
  | sys _ | setup _ _ | dim _ | rowint _ _ | ram _ | keys | intflag => rfl
  | _ => cases ho

/-! ### What a step does -/

theorem decodeCommand_opName {p : Params} {b : Byte} {i : Instr} (h : decodeCommand p b = some i) :
    i.opName = none := by
  unfold decodeCommand at h
  split_ifs at h <;> cases h <;> rfl

/-- A transaction decodes to a command byte, never to a Host operation (R60). -/
theorem decodeTx_opName {p : Params} {bytes : List Byte} {i : Instr} (h : decodeTx p bytes = .ok i) :
    i.opName = none := by
  unfold decodeTx at h
  split at h
  · cases h
  · split at h
    · split at h <;> cases h
      rfl
    · split at h <;> cases h
      next hcmd => exact decodeCommand_opName hcmd

/-- A transaction that is no command is named whole in the rejection. -/
theorem decodeTx_rejects {p : Params} {bytes : List Byte} {e : DecodeError} (h : decodeTx p bytes = .error e) :
    e = .noCommand bytes := by
  unfold decodeTx at h
  split at h
  · cases h; rfl
  · split at h <;> split at h <;> cases h <;> rfl

/-- What a step makes of the state. -/
inductive StepEffect (s : State) : State → Prop
  /-- A Host operation passed the checks and completed. -/
  | completed {i : Instr} {op : OpName} (ho : i.opName = some op) (hi : s.inited = true ∨ op = .init) :
      StepEffect s (complete (bodyOf i s))
  /-- A fault was raised. -/
  | raised (f : Fault) : StepEffect s (raise f s)
  /-- The Device reacted to a command byte; `wire` is what stands at the Device after it. -/
  | reacted {i : Instr} (wire : List (List Byte)) (ho : i.opName = none) (hw : i.wf = true) :
      StepEffect s (bodyOf i { s with wire := wire })
  /-- The Host read a result register. -/
  | served (v : ResultValue) : StepEffect s { s with got := s.got ++ [v], reads := s.reads.tail }
  /-- Nothing happened. -/
  | idle : StepEffect s s

theorem exec_effect {i : Instr} {s t : State} (h : exec i s = .next t) : StepEffect s t := by
  obtain ⟨_, ho, _, hi, rfl⟩ | ⟨_, _, _, _, _, rfl⟩ | ⟨ho, hw, rfl⟩ := exec_next h
  · exact .completed ho hi
  · exact .raised _
  · exact .reacted s.wire ho hw

theorem hostRead_effect {r : ResultReg} {s t : State} (h : hostRead r s = .next t) : StepEffect s t := by
  obtain ⟨v, _, rfl⟩ | ⟨_, rfl⟩ := hostRead_next h
  · exact .served v
  · exact .raised _

theorem decodeFailed_effect {e : DecodeError} {s t : State} (h : decodeFailed e s = .next t) : StepEffect s t := by
  obtain ⟨_, ⟨_, rfl⟩ | ⟨_, rfl⟩⟩ := decodeFailed_next h <;> exact .raised _

theorem step_effect {s t : State} (h : step s = .next t) : StepEffect s t := by
  obtain ⟨_, ⟨_, rest, _, _, hdecode, hrun⟩ | ⟨_, _, _, hread⟩ | ⟨_, _, _, _, _, _, hrun⟩ |
    ⟨_, _, _, _, _, _, hfail⟩ | ⟨_, _, _, rfl⟩⟩ := step_next h
  · have ho := decodeTx_opName hdecode
    obtain ⟨hw, rfl⟩ := exec_command_next ho hrun
    exact .reacted rest ho hw
  · exact hostRead_effect hread
  · exact exec_effect hrun
  · exact decodeFailed_effect hfail
  · exact .idle

/-- After a fault there is no step (R172; log entry 1). -/
theorem step_stuck {s : State} {f : Fault} (hf : s.fault = some f) : step s = .fault f := by
  simp [step, fetch, hf]

/-- With nothing waiting, the operation at `pc` runs. -/
theorem step_issued {s : State} {op : HostOp} {i : Instr} (h : Issues s op) (hd : decodeWord op.word = .ok i) :
    step s = exec i s := by
  obtain ⟨hf, hw, hr, ho⟩ := h
  rw [step, fetch_op s op hf hw hr ho, hd]
  rfl

/-- A command that stands at the Device runs in the state without it. -/
theorem step_wire {s : State} {bytes : List Byte} {rest : List (List Byte)} {i : Instr} (hf : s.fault = none)
    (hw : s.wire = bytes :: rest) (hd : decodeTx s.params bytes = .ok i) :
    step s = exec i { s with wire := rest } := by
  rw [step, fetch_wire s bytes rest hf hw, hd]
  rfl

/-- A transaction at the Device that is no command is refused by name (log entry 17). -/
theorem step_wire_refused {s : State} {bytes : List Byte} {rest : List (List Byte)} {e : DecodeError}
    (hf : s.fault = none) (hw : s.wire = bytes :: rest) (hd : decodeTx s.params bytes = .error e) :
    step s = .refused (.noCommand bytes) := by
  rw [step, fetch_wire s bytes rest hf hw, hd, decodeTx_rejects hd]
  rfl

/-- A Host read that is due is served (R173). -/
theorem step_read {s : State} {n : Nat} {r : ResultReg} {waiting : List (Nat × ResultReg)} (hf : s.fault = none)
    (hw : s.wire = []) (hr : s.reads = (n, r) :: waiting) (hn : n ≤ s.pc) :
    step s = match resultOf s r with
      | none => .next { s with fault := some (.readUnwritten r) }
      | some v => .next { s with got := s.got ++ [v], reads := waiting } := by
  have hdue : dueRead s = some r := by simp [dueRead, hr, hn]
  have htail : s.reads.tail = waiting := by rw [hr]; rfl
  rw [step, fetch_reads s r hf hw hdue, ← htail]
  show hostRead r s = _
  unfold hostRead
  cases resultOf s r <;> rfl

/-- With nothing waiting and no operation issued, nothing happens (log entry 10). -/
theorem step_idle {s : State} (hf : s.fault = none) (hw : s.wire = []) (hr : dueRead s = none)
    (ho : s.ops[s.pc]? = none) : step s = .next s := by
  rw [step, fetch_idle s hf hw hr ho]

/-- What a placed operation leaves at its index, past the end of the list too. -/
theorem placeAt_getElem? (l : List HostOp) (n : Nat) (x : HostOp) : (placeAt l n x)[n]? = some x := by
  unfold placeAt
  split
  · next hlt => simp [hlt]
  · next hge =>
    rw [List.getElem?_append_right (by omega), List.getElem?_replicate, if_pos (by omega)]

/-- A placed word is the operation the Host issues next, beside the sprite that stood at the port. -/
theorem placeWord_issues {s : State} (hf : s.fault = none) (w : BitVec 32) :
    Issues (placeWord s w) ⟨w, spritePort s⟩ :=
  ⟨hf, rfl, rfl, placeAt_getElem? s.ops s.pc ⟨w, spritePort s⟩⟩

theorem spritePort_placeWord (s : State) (w : BitVec 32) : spritePort (placeWord s w) = spritePort s := by
  rw [spritePort, show (placeWord s w).ops[(placeWord s w).pc]? = some ⟨w, spritePort s⟩ from placeAt_getElem? ..]

/-! ### Transactions: what reaches the Device and what is lost -/

/-- The Device after a transaction it reacts to like this, where it reaches the Device (R50). -/
def deliver (react : Device → Device) (s : State) : Device := if reaches s then react s.device else s.device

theorem deliver_reached {s : State} (h : reaches s = true) (react : Device → Device) :
    deliver react s = react s.device := if_pos h

theorem deliver_lost {s : State} (h : reaches s = false) (react : Device → Device) : deliver react s = s.device := by
  simp [deliver, h]

/-- What holds of the Device whether a transaction reaches it or not holds of it afterwards. -/
theorem deliver_of {P : Device → Prop} {react : Device → Device} {s : State} (hlost : P s.device)
    (hreached : P (react s.device)) : P (deliver react s) := by
  unfold deliver
  split
  · exact hreached
  · exact hlost

/-! Every body that is one transaction leaves what it delivers. -/

theorem wakeBody_device (s : State) : (wakeBody s).device = deliver (Device.sys true) s := rfl

theorem sleepBody_device (s : State) : (sleepBody s).device = deliver (Device.sys false) s := rfl

theorem brightnessBody_device (l : BitVec 4) (s : State) :
    (brightnessBody l s).device = deliver (Device.dim l) s := rfl

theorem blinkBody_device (b : BitVec 2) (s : State) : (blinkBody b s).device = deliver (Device.setup true b) s := rfl

theorem rowintBody_device (u h : Bool) (s : State) :
    (rowintBody u h s).device = deliver (Device.rowint u (u && h)) s := rfl

theorem writeBody_device (s : State) :
    (writeBody s).device = deliver (Device.storeRam s.params (payload s)) s := rfl

theorem busRead_device_eq (n : Nat) (s : State) :
    (busRead n s).device = deliver (Device.answered s.params s.trace (answer s n)) s := rfl

/-- The script lets the next `n` transactions reach the Device. -/
def ReachesNext (n : Nat) (s : State) : Prop := ∀ k, k < n → ∃ o, s.script[k]? = some o ∧ o.reached = true

theorem ReachesNext.reaches {n : Nat} {s : State} (h : ReachesNext (n + 1) s) : reaches s = true := by
  obtain ⟨o, ho, hreached⟩ := h 0 (Nat.succ_pos n)
  cases hs : s.script with
  | nil => simp [hs] at ho
  | cons o' rest =>
    obtain rfl : o' = o := by simpa [hs] using ho
    simpa [Machine.reaches, hs] using hreached

/-- A transaction takes its outcome off the script. -/
theorem ReachesNext.tail {n : Nat} {s t : State} (h : ReachesNext (n + 1) s) (ht : t.script = s.script.tail) :
    ReachesNext n t := by
  intro k hk
  rw [ht, List.getElem?_tail]
  exact h (k + 1) (Nat.succ_lt_succ hk)

/-! ### The payload of a WRITE -/

@[simp] theorem writeRow_length (s : State) (p : BitVec 3) : (writeRow s p).length = 2 := by
  unfold writeRow orderBytes
  split <;> rfl

@[simp] theorem payload_length (s : State) : (payload s).length = 16 := by simp [payload]

/-- A cleared row gives two zero bytes under every combination of the flags. -/
theorem writeRow_cleared {s : State} (h : s.buf = Vector.replicate 8 0) (p : BitVec 3) : writeRow s p = [0, 0] := by
  rw [writeRow, h, getRow_cleared]
  cases s.reversed <;> cases s.hFlipped <;> decide

theorem payload_cleared {s : State} (h : s.buf = Vector.replicate 8 0) : payload s = List.replicate 16 0 := by
  simp [payload, writeRow_cleared h]

/-! ### The Device's reactions -/

/-- What an oscillator-off command leaves is certain in the sense of `AfterSleep`. -/
theorem oscillatorOff_afterSleep (d : Device) : AfterSleep d d.oscillatorOff := by
  refine ⟨rfl, rfl, rfl, rfl, rfl, rfl, fun a => ?_⟩
  rw [oscillatorOff_read]
  split
  · exact .inl rfl
  · exact .inr rfl

/-- From `d` to `e` the key registers and the latches stayed. -/
def KeysKept (d e : Device) : Prop :=
  e.keyData = d.keyData ∧ e.intFlag = d.intFlag ∧ e.keyLatch = d.keyLatch ∧ e.intLatch = d.intLatch

theorem KeysKept.refl (d : Device) : KeysKept d d := ⟨rfl, rfl, rfl, rfl⟩

theorem KeysKept.trans {d e f : Device} (hde : KeysKept d e) (hef : KeysKept e f) : KeysKept d f := by
  obtain ⟨hdata, hflag, hkey, hint⟩ := hde
  obtain ⟨hdata', hflag', hkey', hint'⟩ := hef
  exact ⟨hdata'.trans hdata, hflag'.trans hflag, hkey'.trans hkey, hint'.trans hint⟩

theorem sys_keysKept (on : Bool) (d : Device) : KeysKept d (d.sys on) := by
  cases on <;> exact ⟨rfl, rfl, rfl, rfl⟩

theorem deliver_keysKept {react : Device → Device} (hreact : ∀ d, KeysKept d (react d)) (s : State) :
    KeysKept s.device (deliver react s) := deliver_of (.refl _) (hreact _)

theorem wakeBody_keysKept (s : State) : KeysKept s.device (wakeBody s).device := deliver_keysKept (sys_keysKept true) s

theorem brightnessBody_keysKept (l : BitVec 4) (s : State) : KeysKept s.device (brightnessBody l s).device :=
  deliver_keysKept (react := Device.dim l) (fun _ => ⟨rfl, rfl, rfl, rfl⟩) s

theorem blinkBody_keysKept (b : BitVec 2) (s : State) : KeysKept s.device (blinkBody b s).device :=
  deliver_keysKept (react := Device.setup true b) (fun _ => ⟨rfl, rfl, rfl, rfl⟩) s

theorem rowintBody_keysKept (u h : Bool) (s : State) : KeysKept s.device (rowintBody u h s).device :=
  deliver_keysKept (react := Device.rowint u (u && h)) (fun _ => ⟨rfl, rfl, rfl, rfl⟩) s

theorem writeBody_keysKept (s : State) : KeysKept s.device (writeBody s).device :=
  deliver_keysKept (react := Device.storeRam s.params (payload s)) (fun _ => ⟨rfl, rfl, rfl, rfl⟩) s

/-- Four writes follow one another in INIT (R121), and none of them touches the key registers. -/
theorem initBody_keysKept (a : BitVec 7) (s : State) : KeysKept s.device (initBody a s).device :=
  have hwake : KeysKept s.device (wakeBody (initState a s)).device := wakeBody_keysKept (initState a s)
  have hblink := hwake.trans (blinkBody_keysKept 0 _)
  have hdim := hblink.trans (brightnessBody_keysKept 15 _)
  hdim.trans (writeBody_keysKept _)

/-- Only the key-scan operations touch the key registers and the latches (R33, R49). -/
theorem bodyOf_keysKept {i : Instr} (hdata : i ≠ .getkeydata) (hint : i ≠ .getkeyint) (s : State) :
    KeysKept s.device (bodyOf i s).device := by
  cases i with
  | getkeydata => exact absurd rfl hdata
  | getkeyint => exact absurd rfl hint
  | init a => exact initBody_keysKept a s
  | wakeup => exact wakeBody_keysKept s
  | sleep => exact deliver_keysKept (sys_keysKept false) s
  | setbrightness l => exact brightnessBody_keysKept (levelOf l) s
  | setblink r => exact blinkBody_keysKept (rateOf r) s
  | setrowint u h => exact rowintBody_keysKept (boolOf u) (boolOf h) s
  | write => exact writeBody_keysKept s
  | sys on => exact sys_keysKept on s.device
  | _ => exact .refl _

/-- From `d` to `e` at most the key registers, the latches and the selected register changed. -/
def KeyPartsOnly (d e : Device) : Prop :=
  e = { d with
    keyData := e.keyData, intFlag := e.intFlag, keyLatch := e.keyLatch, intLatch := e.intLatch, selected := e.selected }

theorem KeyPartsOnly.refl (d : Device) : KeyPartsOnly d d := rfl

theorem KeyPartsOnly.trans {d e f : Device} (hde : KeyPartsOnly d e) (hef : KeyPartsOnly e f) : KeyPartsOnly d f := by
  unfold KeyPartsOnly at *
  rw [hef, hde]

theorem answered_keyPartsOnly (p : Params) (trace : List BusEvent) (bytes : List Byte) (d : Device) :
    KeyPartsOnly d (d.answered p trace bytes) := by
  rw [KeyPartsOnly, answered_frame]

theorem busRead_keyPartsOnly (n : Nat) (s : State) : KeyPartsOnly s.device (busRead n s).device := by
  rw [busRead_device_eq]
  exact deliver_of (.refl _) (answered_keyPartsOnly ..)

theorem keyScan_cases {i : Instr} (hi : i ∈ [Instr.getkeydata, .getkeyint]) : i = .getkeydata ∨ i = .getkeyint := by
  simpa using hi

/-- A select byte and a read leave the settings and the display RAM (R49, R75). -/
theorem keyScan_keyPartsOnly {i : Instr} (hi : i ∈ [Instr.getkeydata, .getkeyint]) (s : State) :
    KeyPartsOnly s.device (bodyOf i s).device := by
  have hkeys : KeyPartsOnly s.device (selectKeysBody s).device := deliver_of (react := Device.selectKeys) rfl rfl
  have hflag : KeyPartsOnly s.device (selectIntFlagBody s).device :=
    deliver_of (react := Device.selectIntFlag) rfl rfl
  obtain rfl | rfl := keyScan_cases hi
  · exact hkeys.trans (busRead_keyPartsOnly 6 _)
  · exact hflag.trans (busRead_keyPartsOnly 1 _)

/-- The key-scan operations write their result register and the trace, and nothing else of the Block (R149). -/
theorem keyScan_block {i : Instr} (hi : i ∈ [Instr.getkeydata, .getkeyint]) (s : State) :
    bodyOf i s =
      { s with
        ks := (bodyOf i s).ks, keyint := (bodyOf i s).keyint, trace := (bodyOf i s).trace,
        script := (bodyOf i s).script, device := (bodyOf i s).device, pc := (bodyOf i s).pc,
        fault := (bodyOf i s).fault } := by
  obtain rfl | rfl := keyScan_cases hi <;> rfl

/-! ### The setting commands -/

/-- WAKEUP, SLEEP, SETBRIGHTNESS, SETBLINK and SETROWINT: the operations that send one command byte of R71 to R74. -/
def IsSetting (i : Instr) : Prop :=
  i = .wakeup ∨ i = .sleep ∨ (∃ l, i = .setbrightness l) ∨ (∃ r, i = .setblink r) ∨ (∃ u h, i = .setrowint u h)

theorem IsSetting.opName {i : Instr} (hi : IsSetting i) : ∃ op, i.opName = some op := by
  obtain rfl | rfl | ⟨_, rfl⟩ | ⟨_, rfl⟩ | ⟨_, _, rfl⟩ := hi <;> exact ⟨_, rfl⟩

theorem IsSetting.block {i : Instr} (hi : IsSetting i) (s : State) :
    bodyOf i s =
      { s with
        power := (bodyOf i s).power, trace := (bodyOf i s).trace, script := (bodyOf i s).script,
        device := (bodyOf i s).device, pc := (bodyOf i s).pc, fault := (bodyOf i s).fault } := by
  obtain rfl | rfl | ⟨_, rfl⟩ | ⟨_, rfl⟩ | ⟨_, _, rfl⟩ := hi <;> rfl

theorem IsSetting.power {i : Instr} (hi : IsSetting i) (hwake : i ≠ .wakeup) (hsleep : i ≠ .sleep) (s : State) :
    (bodyOf i s).power = s.power := by
  obtain rfl | rfl | ⟨_, rfl⟩ | ⟨_, rfl⟩ | ⟨_, _, rfl⟩ := hi
  · exact absurd rfl hwake
  · exact absurd rfl hsleep
  all_goals rfl

theorem IsSetting.keysKept {i : Instr} (hi : IsSetting i) (s : State) : KeysKept s.device (bodyOf i s).device := by
  refine bodyOf_keysKept ?_ ?_ s <;> rintro rfl <;> simp [IsSetting] at hi

/-- SLEEP delivers an oscillator-off command, every other setting command a reaction that leaves the display RAM and the
selected register. -/
theorem IsSetting.delivers {i : Instr} (hi : IsSetting i) (s : State) :
    (i = .sleep ∧ (bodyOf i s).device = deliver Device.oscillatorOff s) ∨
    ∃ react : Device → Device, (bodyOf i s).device = deliver react s ∧ (react s.device).ram = s.device.ram ∧
      (react s.device).selected = s.device.selected := by
  obtain rfl | rfl | ⟨l, rfl⟩ | ⟨r, rfl⟩ | ⟨u, h, rfl⟩ := hi
  · exact .inr ⟨Device.sys true, wakeBody_device s, rfl, rfl⟩
  · exact .inl ⟨rfl, sleepBody_device s⟩
  · exact .inr ⟨_, brightnessBody_device (levelOf l) s, rfl, rfl⟩
  · exact .inr ⟨_, blinkBody_device (rateOf r) s, rfl, rfl⟩
  · exact .inr ⟨_, rowintBody_device (boolOf u) (boolOf h) s, rfl, rfl⟩

theorem IsSetting.selected {i : Instr} (hi : IsSetting i) (s : State) :
    (bodyOf i s).device.selected = s.device.selected := by
  obtain ⟨_, hbody⟩ | ⟨_, hbody, _, hselected⟩ := hi.delivers s <;> rw [hbody]
  · exact deliver_of (P := fun e => e.selected = s.device.selected) rfl rfl
  · exact deliver_of (P := fun e => e.selected = s.device.selected) rfl hselected

/-- No setting command writes the display RAM; SLEEP may lose bytes of it (R184). -/
theorem IsSetting.ram {i : Instr} (hi : IsSetting i) (s : State) (a : Nat) :
    (bodyOf i s).device.ram.read a = s.device.ram.read a ∨ (i = .sleep ∧ (bodyOf i s).device.ram.read a = none) := by
  obtain ⟨hsleep, hbody⟩ | ⟨_, hbody, hram, _⟩ := hi.delivers s <;> rw [hbody]
  · obtain ⟨_, _, _, _, _, _, hread⟩ := oscillatorOff_afterSleep s.device
    exact deliver_of (P := fun e => e.ram.read a = s.device.ram.read a ∨ (i = .sleep ∧ e.ram.read a = none)) (.inl rfl)
      ((hread a).imp_right fun hnone => ⟨hsleep, hnone⟩)
  · exact .inl (deliver_of (P := fun e => e.ram.read a = s.device.ram.read a) rfl (by rw [hram]))

/-! ### The display RAM's form -/

/-- `RamOk` as a statement about a Device alone: `RamOk s` is `RamForm s.params s.device`. -/
def RamForm (p : Params) (d : Device) : Prop :=
  d.ram.wf = true ∧ ∀ cell ∈ d.ram, p.cmdRam.toNat ≤ cell.1 ∧ cell.1 < p.cmdRam.toNat + 16

theorem RamForm.sys {p : Params} {d : Device} (h : RamForm p d) (on : Bool) : RamForm p (d.sys on) := by
  obtain ⟨hwf, hrange⟩ := h
  cases on with
  | true => exact ⟨hwf, hrange⟩
  | false => exact ⟨afterSleep_wf d.sleeps d.ram hwf, fun c hc => hrange c (List.mem_of_mem_filter hc)⟩

theorem RamForm.storeRam {p : Params} {d : Device} (h : RamForm p d) {bytes : List Byte} (hlen : bytes.length = 16) :
    RamForm p (d.storeRam p bytes) := by
  obtain ⟨hwf, hrange⟩ := h
  refine ⟨writeBytes_wf bytes d.ram p.cmdRam.toNat hwf, fun c hc => ?_⟩
  obtain hnew | hold := mem_writeBytes bytes d.ram p.cmdRam.toNat c hc
  · rwa [hlen] at hnew
  · exact hrange c hold

theorem busWrite_ramOk {bytes : List Byte} {react : Device → Device} {s : State} (h : RamOk s)
    (hreact : RamForm s.params (react s.device)) : RamOk (busWrite bytes react s) :=
  deliver_of (P := RamForm s.params) h hreact

theorem busRead_ramOk {n : Nat} {s : State} (h : RamOk s) : RamOk (busRead n s) := by
  refine deliver_of (P := RamForm s.params) h ?_
  rw [RamForm, answered_ram]
  exact h

theorem wakeBody_ramOk {s : State} (h : RamOk s) : RamOk (wakeBody s) :=
  deliver_of (P := RamForm s.params) h (RamForm.sys h true)

theorem writeBody_ramOk {s : State} (h : RamOk s) : RamOk (writeBody s) :=
  busWrite_ramOk h (RamForm.storeRam h (payload_length s))

theorem initBody_ramOk {a : BitVec 7} {s : State} (h : RamOk s) : RamOk (initBody a s) :=
  have hwake : RamOk (wakeBody (initState a s)) := wakeBody_ramOk h
  have hblink : RamOk (blinkBody 0 (wakeBody (initState a s))) := busWrite_ramOk hwake hwake
  writeBody_ramOk (busWrite_ramOk hblink hblink)

/-- Only `SYS(0)` and the 16 bytes of a display-RAM command touch the RAM. -/
theorem bodyOf_ramOk {i : Instr} {s : State} (hw : i.wf = true) (h : RamOk s) : RamOk (bodyOf i s) := by
  cases i with
  | init a => exact initBody_ramOk h
  | wakeup => exact wakeBody_ramOk h
  | sleep => exact deliver_of (P := RamForm s.params) h (RamForm.sys h false)
  | setbrightness _ | setblink _ | setrowint _ _ => exact busWrite_ramOk h h
  | write => exact writeBody_ramOk h
  | getkeydata | getkeyint => exact busRead_ramOk (busWrite_ramOk h h)
  | sys on => exact RamForm.sys h on
  | ram bytes => exact RamForm.storeRam h (by simpa [Instr.wf] using hw)
  | _ => exact h

/-! ### The snapshot's form -/

/-- The part of `BlockOk` about the snapshot words: the first two are written together, the third with them or never. -/
def SnapshotForm (k : KeyWords) (ks : Vector (Option Row) 3) : Prop :=
  ks[1].isSome = ks[0].isSome ∧ (k = .two → ks[2] = none) ∧ (k = .three → ks[2].isSome = ks[0].isSome)

theorem SnapshotForm.snapshot {k : KeyWords} {ks : Vector (Option Row) 3} (h : SnapshotForm k ks) (b : List Byte) :
    SnapshotForm k (snapshot k ks b) := by
  obtain ⟨_, htwo, _⟩ := h
  cases k with
  | two => exact ⟨rfl, fun _ => htwo rfl, nofun⟩
  | three => exact ⟨rfl, nofun, fun _ => rfl⟩

theorem bodyOf_snapshotForm {s : State} (h : SnapshotForm s.params.keyWords s.ks) (i : Instr) :
    SnapshotForm s.params.keyWords (bodyOf i s).ks := by
  by_cases hi : i = .getkeydata
  · subst hi
    exact h.snapshot (answer (selectKeysBody s) 6)
  · rwa [bodyOf_ks hi]

/-- An operation that completes leaves an initialised Block, so of `BlockOk` only the snapshot's form is at stake. -/
theorem complete_blockOk {i : Instr} {op : OpName} {s : State} (ho : i.opName = some op)
    (hi : s.inited = true ∨ op = .init) (h : BlockOk s) : BlockOk (complete (bodyOf i s)) := by
  obtain ⟨_, hform⟩ := h
  obtain ⟨_, _, hparams⟩ := bodyOf_onlyAppends i s
  have hafter : SnapshotForm (bodyOf i s).params.keyWords (bodyOf i s).ks := by
    rw [hparams]
    exact bodyOf_snapshotForm hform i
  refine ⟨fun huninit => ?_, hafter⟩
  rw [complete_inited, bodyOf_completed_inited ho hi] at huninit
  cases huninit

/-! ### Power-on and invariants -/

/-- Settles O3: of a step's effects only a completed operation and a command byte touch the display RAM. -/
theorem stepKeepsRamForm : Obligations.StepKeepsRamForm := by
  intro s t hs h
  cases step_effect h with
  | completed ho _ => exact bodyOf_ramOk (wf_of_opName ho) hs
  | reacted wire _ hw => exact bodyOf_ramOk (s := { s with wire := wire }) hw hs
  | raised | served | idle => exact hs

/-- Settles O4: a completed operation initialises the Block and keeps the snapshot's form; no other effect of a step
touches what `BlockOk` speaks of. -/
theorem stepKeepsBlockForm : Obligations.StepKeepsBlockForm := by
  intro s t hs h
  cases step_effect h with
  | completed ho hi => exact complete_blockOk ho hi hs
  | reacted _ ho _ => rw [bodyOf_command ho]; exact hs
  | raised | served | idle => exact hs

/-- Settles O1: the reset values, the check of R172, and that the first sub-steps of INIT overwrite every field R34
gives no value. -/
theorem powerOnState : Obligations.PowerOnState := by
  refine ⟨rfl, rfl, rfl, by decide, rfl, fun _ _ _ => exec_notInitialised, fun a s b rv vf hf q d => ?_⟩
  have hwake : wakeBody (initState a
      { s with buf := b, reversed := rv, vFlipped := vf, hFlipped := hf, power := q, addr := d }) =
      wakeBody (initState a s) := rfl
  simp only [exec_init, initOp, bodyOf, initBody, hwake]

/-- Settles O2: at power-on the display RAM lists no cell, the trace no event and the snapshot no word. -/
theorem invariantsAtPowerOn : Obligations.InvariantsAtPowerOn := by
  refine ⟨⟨reset_ram_wf, fun cell hcell => ?_⟩, ?_, fun a bytes hmem => ?_, fun before a n bytes after h => ?_⟩
  · cases hcell
  · exact ⟨fun _ => ⟨rfl, rfl, rfl, rfl⟩, rfl, fun _ => rfl, fun _ => rfl⟩
  · cases hmem
  · simp [State.reset] at h

/-- Settles O7: INIT sets `inited`, and no other body, no fault and no command byte writes it. -/
theorem onlyInitInitialises : Obligations.OnlyInitInitialises := by
  refine ⟨rfl, fun a s hf => ⟨_, exec_ready (i := .init a) rfl hf (.inr rfl), rfl⟩, fun i s t hi h => ?_,
    fun _ _ _ => exec_notInitialised⟩
  obtain ⟨_, _, _, _, rfl⟩ | ⟨_, _, _, _, _, rfl⟩ | ⟨_, _, rfl⟩ := exec_next h
  · exact bodyOf_inited hi s
  · rfl
  · exact bodyOf_inited hi s

/-! ### Steps and faults -/

/-- Settles O8: one clause for each move of the fetch. -/
theorem stepRunsDecoded : Obligations.StepRunsDecoded :=
  ⟨fun _ _ _ => step_issued, fun _ _ _ _ => step_wire, fun _ _ _ _ => step_wire_refused, fun _ => step_idle⟩

/-- Settles O9: a placed word is issued, and a placed transaction stands first at the Device. -/
theorem placedInstructionRuns : Obligations.PlacedInstructionRuns :=
  ⟨fun s w _ hf hd => ⟨step_issued (placeWord_issues hf _) hd, spritePort_placeWord s (BitVec.ofNat 32 w)⟩,
    fun s w _ hf hd => step_wire (s := placeTx s (tableTx s.params (BitVec.ofNat 8 w))) hf rfl hd⟩

/-- Settles O11: of a step's effects only `raised` writes `fault`, and it writes nothing else. -/
theorem faultIsStickyAndPrecise : Obligations.FaultIsStickyAndPrecise := by
  refine ⟨fun _ _ => step_stuck, fun _ _ _ _ hf ho => exec_stuck ho hf, fun s t h => ?_⟩
  obtain ⟨hf, _⟩ := step_next h
  refine ⟨hf, ?_⟩
  cases step_effect h with
  | completed => left; simpa using hf
  | reacted => left; simpa using hf
  | raised => exact .inr rfl
  | served | idle => exact .inl hf

/-- Settles O13: `complete` alone writes `pc`; no body does. -/
theorem pcCountsCompletedOperations : Obligations.PcCountsCompletedOperations := by
  refine ⟨fun i op s t ho h => ?_, fun i s t ho h => ?_, fun s t h => ?_⟩
  · obtain ⟨hf, rfl | ⟨_, rfl⟩⟩ := exec_op_next ho h
    · simp [hf]
    · simp
  · obtain ⟨_, rfl⟩ := exec_command_next ho h
    exact bodyOf_pc i s
  · cases step_effect h with
    | completed => right; simp
    | reacted => left; simp
    | raised | served | idle => exact .inl rfl

/-- Settles O47: a due read answers what the register holds; with two words decoded `BlockOk` says `KS[2]` is
unwritten. -/
theorem hostReadRule : Obligations.HostReadRule := by
  refine ⟨fun s n j waiting hf hw hr hn => ?_, fun s n waiting hf hw hr hn => ?_,
    fun s n waiting hs htwo hf hw hr hn => ?_⟩ <;> rw [step_read hf hw hr hn, resultOf]
  · show (match s.ks[j].map ResultValue.word with | none => _ | some v => _) = _
    cases s.ks[j] <;> rfl
  · cases s.keyint <;> rfl
  · obtain ⟨_, _, hnone, _⟩ := hs
    rw [show s.ks[(2 : Fin 3).val] = none from hnone htwo]
    rfl

/-! ### Noninterference -/

/-- Settles O50: every body gives the same with another `power`, which it keeps or overwrites. -/
theorem powerGatesNothing : Obligations.PowerGatesNothing := by
  intro i s t q h
  have hbody :
      bodyOf i { s with power := q } = { bodyOf i s with power := (bodyOf i { s with power := q }).power } := by
    cases i <;> rfl
  obtain ⟨u, hu, q', rfl⟩ := exec_related (R := fun t u => ∃ q', u = { t with power := q' }) h
    (s' := { s with power := q }) rfl rfl ⟨_, hbody⟩ ⟨_, congrArg complete hbody⟩ (fun _ => ⟨q, rfl⟩)
  exact ⟨q', hu⟩

/-- What shows of a state on the bus and in the registers the Host reads, with `power`. -/
def SameShown (t u : State) : Prop :=
  u.trace = t.trace ∧ u.device = t.device ∧ u.ks = t.ks ∧ u.keyint = t.keyint ∧ u.power = t.power

/-- The pipeline of WRITE alone reads the buffer and the flags for what is sent; INIT sends its own zeros. -/
theorem bodyOf_sameShown {i : Instr} (hi : i ≠ .write) (s : State) (b : Rows) (rv vf hf : Bool) :
    SameShown (bodyOf i s) (bodyOf i { s with buf := b, reversed := rv, vFlipped := vf, hFlipped := hf }) := by
  cases i with
  | write => exact absurd rfl hi
  | _ => exact ⟨rfl, rfl, rfl, rfl, rfl⟩

/-- No body reads a flag to change the buffer (R24). -/
theorem bodyOf_buf_flags (i : Instr) (s : State) (rv vf hf : Bool) :
    (bodyOf i { s with reversed := rv, vFlipped := vf, hFlipped := hf }).buf = (bodyOf i s).buf := by
  cases i <;> rfl

/-- Settles O52: WRITE apart, what a body shows is the same for every buffer and every flag, and no body's buffer
depends on a flag. -/
theorem onlyWriteShowsTheBuffer : Obligations.OnlyWriteShowsTheBuffer := by
  refine ⟨fun i s t b rv vf hf hi h => ?_, fun i s t rv vf hf h => ?_⟩
  · have hbody := bodyOf_sameShown hi s b rv vf hf
    exact exec_related (R := SameShown) h rfl rfl hbody hbody (fun _ => ⟨rfl, rfl, rfl, rfl, rfl⟩)
  · have hbody := bodyOf_buf_flags i s rv vf hf
    exact exec_related (R := fun t u => u.buf = t.buf) h rfl rfl hbody hbody (fun _ => rfl)

/-! ### The Device -/

theorem levelOf_eq_setWidth (a : Byte) : levelOf a = a.setWidth 4 := BitVec.eq_of_toNat_eq rfl

theorem rateOf_eq_setWidth (a : Byte) : rateOf a = a.setWidth 2 := BitVec.eq_of_toNat_eq rfl

/-- What the Device holds after the four transactions of INIT, where all of them reach it (R192). -/
theorem initBody_device_reached {a : BitVec 7} {s : State} (h : ReachesNext 4 s) :
    (initBody a s).device =
      Device.storeRam s.params (List.replicate 16 0)
        { s.device with oscillator := true, displayOn := true, blink := 0, brightness := 15 } := by
  have hstart : ReachesNext 4 (initState a s) := h
  have hwoken : ReachesNext 3 (wakeBody (initState a s)) := hstart.tail rfl
  have hset : ReachesNext 2 (blinkBody 0 (wakeBody (initState a s))) := hwoken.tail rfl
  have hdimmed : ReachesNext 1 (brightnessBody 15 (blinkBody 0 (wakeBody (initState a s)))) := hset.tail rfl
  rw [initBody, writeBody_device, deliver_reached hdimmed.reaches, brightnessBody_device, deliver_reached hset.reaches,
    blinkBody_device, deliver_reached hwoken.reaches, wakeBody_device, deliver_reached hstart.reaches,
    payload_cleared rfl]
  rfl

/-- Settles O36: the four reactions in their order, the last of them storing zeros. -/
theorem initReachesDevice : Obligations.InitReachesDevice := by
  intro a s hf hreach
  have hdevice := initBody_device_reached (a := a) hreach
  refine ⟨complete (initBody a s), exec_ready (i := .init a) rfl hf (.inr rfl), ?_, fun x => ?_⟩ <;>
    rw [complete_device, hdevice]
  · rfl
  · rw [storeRam_read, List.length_replicate]
    split
    · next hx => rw [List.getElem?_replicate, if_pos (by omega)]
    · rfl

/-- Settles O48: each command byte is its reaction; `SYS(0)` and the display-RAM command by what they leave of the
RAM. -/
theorem commandBytesAtDevice : Obligations.CommandBytesAtDevice := by
  intro s
  refine ⟨rfl, ⟨_, rfl, oscillatorOff_afterSleep s.device⟩, fun _ _ => rfl, fun _ => rfl, fun _ _ => rfl, rfl, rfl,
    fun bytes hlen => ⟨_, exec_command (.ram bytes) s rfl (by simp [Instr.wf, hlen]), fun x => ?_⟩,
    fun bytes hlen => if_neg hlen⟩
  rw [← hlen]
  exact storeRam_read s.params bytes s.device x

/-- An operation that is one transaction completes; the Device reacts to it, or stays as it was where it is lost
(R50). -/
theorem exec_delivers {i : Instr} {op : OpName} {react : Device → Device} {s : State} (ho : i.opName = some op)
    (hs : Ready s) (hbody : (bodyOf i s).device = deliver react s) :
    ∃ t, exec i s = .next t ∧ (reaches s = true → t.device = react s.device) ∧
      (reaches s = false → t.device = s.device) := by
  obtain ⟨hf, hi⟩ := hs
  exact ⟨_, exec_ready ho hf (.inl hi), fun hr => hbody.trans (deliver_reached hr react),
    fun hr => hbody.trans (deliver_lost hr react)⟩

/-- Settles O49: each of these operations is one transaction, delivered or lost. -/
theorem blockCommandsActOnDevice : Obligations.BlockCommandsActOnDevice := by
  intro s hs
  obtain ⟨tw, hwake, hwoken, hwakeLost⟩ := exec_delivers (i := .wakeup) rfl hs (wakeBody_device s)
  obtain ⟨ts, hsleep, hslept, hsleepLost⟩ := exec_delivers (i := .sleep) rfl hs (sleepBody_device s)
  refine ⟨tw, ts, hwake, hsleep, fun level => ?_, fun rate => ?_, fun u h => ?_, ?_,
    fun hr => ⟨hwoken hr, ?_⟩, fun hr => ⟨hwakeLost hr, hsleepLost hr⟩⟩
  · rw [← levelOf_eq_setWidth]
    exact exec_delivers (i := .setbrightness level) rfl hs (brightnessBody_device (levelOf level) s)
  · rw [← rateOf_eq_setWidth]
    exact exec_delivers (i := .setblink rate) rfl hs (blinkBody_device (rateOf rate) s)
  · exact exec_delivers (i := .setrowint u h) rfl hs (rowintBody_device (boolOf u) (boolOf h) s)
  · obtain ⟨t, hwrite, hstored, hlost⟩ := exec_delivers (i := .write) rfl hs (writeBody_device s)
    refine ⟨t, hwrite, fun hr => ?_, hlost⟩
    rw [hstored hr]
    exact ⟨rfl, fun x => payload_length s ▸ storeRam_read s.params (payload s) s.device x⟩
  · rw [hslept hr]
    exact oscillatorOff_afterSleep s.device

/-! ### Frames -/

/-- Settles O55: the frame of a setting command's body, or a fault and nothing else. -/
theorem settingCommandsFrame : Obligations.SettingCommandsFrame := by
  intro i s t hi h
  have hset : IsSetting i := hi
  obtain ⟨op, ho⟩ := hset.opName
  obtain ⟨hf, rfl | ⟨huninit, rfl⟩⟩ := exec_op_next ho h
  · obtain ⟨hdata, hflag, hkey, hint⟩ := hset.keysKept s
    exact ⟨congrArg complete (hset.block s), fun hwake hsleep => hset.power hwake hsleep s, fun _ => by simpa using hf,
      hdata, hflag, hkey, hint, hset.selected s, hset.ram s⟩
  · exact ⟨rfl, fun _ _ => rfl, fun hinit => by simp [huninit] at hinit, rfl, rfl, rfl, rfl, rfl, fun _ => .inl rfl⟩

/-- Settles O58: the frame of a key-scan body, or a fault and nothing else. -/
theorem keyScanFrame : Obligations.KeyScanFrame := by
  intro i s t hi h
  have hop : ∃ op, i.opName = some op := by
    obtain rfl | rfl := keyScan_cases hi <;> exact ⟨_, rfl⟩
  obtain ⟨op, ho⟩ := hop
  obtain ⟨hf, rfl | ⟨huninit, rfl⟩⟩ := exec_op_next ho h
  · have hdevice := keyScan_keyPartsOnly hi s
    exact ⟨congrArg complete (keyScan_block hi s), by rintro rfl; rfl, by rintro rfl; rfl, fun _ => by simpa using hf,
      hdevice, fun a => congrArg (fun e => e.ram.read a) hdevice⟩
  · exact ⟨rfl, fun _ => rfl, fun _ => rfl, fun hinit => by simp [huninit] at hinit, rfl, fun _ => rfl⟩

/-- A command byte other than the display-RAM command and `SYS(0)` leaves the display RAM. -/
theorem command_ram {i : Instr} (ho : i.opName = none) (hram : ∀ bytes, i ≠ .ram bytes) (hsys : i ≠ .sys false)
    (s : State) : (bodyOf i s).device.ram = s.device.ram := by
  cases i with
  | ram bytes => exact absurd rfl (hram bytes)
  | sys on =>
    cases on with
    | true => rfl
    | false => exact absurd rfl hsys
  | setup _ _ | dim _ | rowint _ _ | keys | intflag => rfl
  | _ => cases ho

/-- Settles O59: a command byte is the Device's reaction, and only the display-RAM command and `SYS(0)` touch the
RAM. -/
theorem commandBytesFrame : Obligations.CommandBytesFrame := by
  intro i s t ho h
  obtain ⟨hw, rfl⟩ := exec_command_next ho h
  obtain ⟨hdata, hflag, hkey, hint⟩ :=
    bodyOf_keysKept (i := i) (by rintro rfl; cases ho) (by rintro rfl; cases ho) s
  refine ⟨bodyOf_command ho s, hdata, hflag, hkey, hint, fun hram hsys a => by rw [command_ram ho hram hsys], ?_,
    fun hsys a ha => ?_⟩
  · rintro rfl
    obtain ⟨_, _, _, _, _, _, hread⟩ := oscillatorOff_afterSleep s.device
    exact hread
  · by_cases hram : ∃ bytes, i = .ram bytes
    · obtain ⟨bytes, rfl⟩ := hram
      have hlen : bytes.length = 16 := by simpa [Instr.wf] using hw
      exact (storeRam_read s.params bytes s.device a).trans (if_neg (hlen ▸ ha))
    · rw [command_ram ho (not_exists.1 hram) hsys]

end Sys2Proof.Proofs
end

section
/-! PROOFS of the family 20_memory: the form of the bus trace, what a scripted answer shows on it and does to the
Device's latches, and that the Block and the trace do not depend on what reaches the Device. -/

namespace Sys2Proof.Proofs

open Sys2Proof.Machine Sys2Proof.Laws

/-! ### The form of the trace -/

/-- What `TraceOk` asks of one event that stands after the trace `before`. -/
def EventOk (p : Params) (before : List BusEvent) : BusEvent → Prop
  | .tx _ bytes => Sendable p bytes
  | .rx a n bytes =>
    bytes.length = n ∧
    ((n = 6 ∧ ∃ start, before = start ++ [.tx a [p.cmdKeys]]) ∨
     (n = 1 ∧ ∃ start, before = start ++ [.tx a [p.cmdIntflag]]))

/-- A well-formed trace grows by an event whose condition holds after it: a read on the longer trace is an old one, or
the event itself. -/
theorem traceOk_concat {p : Params} {trace : List BusEvent} {e : BusEvent} (h : TraceOk p trace)
    (he : EventOk p trace e) : TraceOk p (trace ++ [e]) := by
  obtain ⟨hwrites, hreads⟩ := h
  refine ⟨fun a bytes hmem => ?_, fun before a n bytes after heq => ?_⟩
  · obtain hold | hnew := List.mem_append.1 hmem
    · exact hwrites a bytes hold
    · obtain rfl := List.mem_singleton.1 hnew
      exact he
  · obtain rfl | ⟨older, last, rfl⟩ := List.eq_nil_or_concat' after
    · obtain ⟨rfl, hlast⟩ := List.append_inj' heq rfl
      obtain rfl := List.singleton_inj.1 hlast
      exact he
    · rw [← List.cons_append, ← List.append_assoc] at heq
      exact hreads before a n bytes older (List.append_inj' heq rfl).1

/-- `TraceOk` as a statement about a state: its trace is well formed under its own parameters. -/
def BusOk (s : State) : Prop := TraceOk s.params s.trace

@[simp] theorem answer_length (s : State) (n : Nat) : (answer s n).length = n := by simp [answer]

theorem busWrite_busOk {bytes : List Byte} {react : Device → Device} {s : State} (h : BusOk s)
    (hbytes : Sendable s.params bytes) : BusOk (busWrite bytes react s) :=
  traceOk_concat h hbytes

/-! The write transactions of the single operations. -/

theorem sendable_sys (p : Params) (on : Bool) : Sendable p [sysByte p on] := .inl ⟨on, rfl⟩

/-- The Block sends the display-on flag set (R128). -/
theorem sendable_setup (p : Params) (b : BitVec 2) : Sendable p [setupByte p true b] := .inr (.inl ⟨b, rfl⟩)

theorem sendable_dim (p : Params) (l : BitVec 4) : Sendable p [dimByte p l] := .inr (.inr (.inl ⟨l, rfl⟩))

/-- SETROWINT masks the active-high bit with the row/int bit (R126), so it never sends `ROWINT | 0b10` (R74). -/
theorem sendable_rowint (p : Params) (u h : Bool) : Sendable p [rowintByte p u (u && h)] :=
  .inr (.inr (.inr (.inl ⟨u, u && h, fun hact => (Bool.and_eq_true_iff.1 hact).1, rfl⟩)))

theorem sendable_ram (p : Params) {data : List Byte} (hlen : data.length = 16) : Sendable p (p.cmdRam :: data) :=
  .inr (.inr (.inr (.inr (.inl ⟨data, hlen, rfl⟩))))

theorem sendable_keys (p : Params) : Sendable p [p.cmdKeys] := .inr (.inr (.inr (.inr (.inr (.inl rfl)))))

theorem sendable_intflag (p : Params) : Sendable p [p.cmdIntflag] := .inr (.inr (.inr (.inr (.inr (.inr rfl)))))

theorem wakeBody_busOk {s : State} (h : BusOk s) : BusOk (wakeBody s) :=
  traceOk_concat h (sendable_sys s.params true)

theorem sleepBody_busOk {s : State} (h : BusOk s) : BusOk (sleepBody s) :=
  traceOk_concat h (sendable_sys s.params false)

theorem brightnessBody_busOk {s : State} (l : BitVec 4) (h : BusOk s) : BusOk (brightnessBody l s) :=
  busWrite_busOk h (sendable_dim s.params l)

theorem blinkBody_busOk {s : State} (b : BitVec 2) (h : BusOk s) : BusOk (blinkBody b s) :=
  busWrite_busOk h (sendable_setup s.params b)

theorem writeBody_busOk {s : State} (h : BusOk s) : BusOk (writeBody s) :=
  busWrite_busOk h (sendable_ram s.params (payload_length s))

/-- The four transactions of INIT follow one another on the trace (R121). -/
theorem initBody_busOk {s : State} (a : BitVec 7) (h : BusOk s) : BusOk (initBody a s) :=
  have hwake := wakeBody_busOk (s := initState a s) h
  writeBody_busOk (brightnessBody_busOk 15 (blinkBody_busOk 0 hwake))

/-- GETKEYDATA reads 6 bytes at once after its register-select write (R149, R150). -/
theorem readKeys_busOk {s : State} (h : BusOk s) : BusOk (readKeysBody (selectKeysBody s)) :=
  have hselect : BusOk (selectKeysBody s) := traceOk_concat h (sendable_keys s.params)
  traceOk_concat hselect ⟨answer_length _ 6, .inl ⟨rfl, s.trace, rfl⟩⟩

/-- GETKEYINT reads 1 byte at once after its register-select write (R149, R153). -/
theorem readIntFlag_busOk {s : State} (h : BusOk s) : BusOk (readIntFlagBody (selectIntFlagBody s)) :=
  have hselect : BusOk (selectIntFlagBody s) := traceOk_concat h (sendable_intflag s.params)
  traceOk_concat hselect ⟨answer_length _ 1, .inr ⟨rfl, s.trace, rfl⟩⟩

/-- The buffer operations, the toggles and the command bytes put nothing on the trace. -/
theorem bodyOf_busOk {s : State} (h : BusOk s) (i : Instr) : BusOk (bodyOf i s) := by
  cases i with
  | init a => exact initBody_busOk a h
  | wakeup => exact wakeBody_busOk h
  | sleep => exact sleepBody_busOk h
  | setbrightness l => exact brightnessBody_busOk (levelOf l) h
  | setblink r => exact blinkBody_busOk (rateOf r) h
  | setrowint u v => exact busWrite_busOk h (sendable_rowint s.params (boolOf u) (boolOf v))
  | write => exact writeBody_busOk h
  | getkeydata => exact readKeys_busOk h
  | getkeyint => exact readIntFlag_busOk h
  | _ => exact h

/-- Settles O5: of a step's effects only a completed operation puts events on the trace, and they are those of its
body. -/
theorem stepKeepsTraceForm : Obligations.StepKeepsTraceForm := by
  intro s t hs h
  cases step_effect h with
  | completed => exact bodyOf_busOk hs _
  | reacted wire => exact bodyOf_busOk (s := { s with wire := wire }) hs _
  | raised | served | idle => exact hs

/-! ### Scripted outcomes (R48, R50; log entry 5) -/

/-- A byte of an answer is a function of the scripted answers and of the trace. -/
theorem answerByte_eq (s : State) (k : Nat) :
    answerByte s k = ((s.script.map BusOutcome.answer).headD []).getD k (Config.answerByte s.trace k) := by
  unfold answerByte
  cases s.script <;> rfl

section Scripted

variable {s : State} {o : BusOutcome} {rest : List BusOutcome}

theorem reaches_scripted (h : s.script = o :: rest) : reaches s = o.reached := by rw [reaches, h]

theorem answerByte_scripted (h : s.script = o :: rest) (k : Nat) :
    answerByte s k = o.answer.getD k (Config.answerByte s.trace k) := by
  rw [answerByte_eq, h]
  rfl

/-- A scripted answer of the length the read asks for is what the read returns. -/
theorem answer_scripted (h : s.script = o :: rest) {n : Nat} (hlen : o.answer.length = n) :
    answer s n = o.answer := by
  refine List.ext_getElem ((answer_length s n).trans hlen.symm) fun k _ hk => ?_
  simp [answer, answerByte_scripted h, hk]

end Scripted

/-- GETKEYDATA puts its select write and its read on the trace (R150). -/
theorem getkeydata_trace (s : State) :
    (bodyOf .getkeydata s).trace =
      s.trace ++ [.tx s.addr [s.params.cmdKeys], .rx s.addr 6 (answer (selectKeysBody s) 6)] :=
  List.append_assoc ..

/-- GETKEYINT puts its select write and its read on the trace (R153). -/
theorem getkeyint_trace (s : State) :
    (bodyOf .getkeyint s).trace =
      s.trace ++ [.tx s.addr [s.params.cmdIntflag], .rx s.addr 1 (answer (selectIntFlagBody s) 1)] :=
  List.append_assoc ..

/-- The result of GETKEYINT is whether the byte it read is nonzero (R153). -/
theorem getkeyint_keyint (s : State) :
    (bodyOf .getkeyint s).keyint = some (answerByte (selectIntFlagBody s) 0 != 0) := rfl

/-- Settles O44: the select write takes the first outcome off the script, so the read's answer is the second. -/
theorem everyAnswerIsPossible : Obligations.EveryAnswerIsPossible := by
  refine ⟨fun s q x r b rest ⟨hf, hi⟩ hlen hs => ?_, fun s q x r b rest ⟨hf, hi⟩ hs => ?_⟩
  · have hscript : (selectKeysBody s).script = ⟨r, b⟩ :: rest := congrArg List.tail hs
    refine ⟨_, exec_ready (i := .getkeydata) rfl hf (.inl hi), ?_, congrArg List.tail hscript⟩
    rw [complete_trace, getkeydata_trace, answer_scripted hscript hlen]
  · have hscript : (selectIntFlagBody s).script = ⟨r, [b]⟩ :: rest := congrArg List.tail hs
    refine ⟨_, exec_ready (i := .getkeyint) rfl hf (.inl hi), ?_, ?_⟩
    · rw [complete_trace, getkeyint_trace, answer_scripted hscript (n := 1) rfl]
    · rw [complete_keyint, getkeyint_keyint, answerByte_scripted hscript]
      rfl

/-! ### The latches after a key read -/

theorem readKeysBody_device (s : State) :
    (readKeysBody s).device = deliver (Device.answered s.params s.trace (answer s 6)) s := rfl

theorem readIntFlagBody_device (s : State) :
    (readIntFlagBody s).device = deliver (Device.answered s.params s.trace (answer s 1)) s := rfl

theorem selectKeysBody_reached {s : State} (h : reaches s = true) :
    (selectKeysBody s).device = s.device.selectKeys := deliver_reached h _

theorem selectIntFlagBody_reached {s : State} (h : reaches s = true) :
    (selectIntFlagBody s).device = s.device.selectIntFlag := deliver_reached h _

/-- GETKEYDATA clears both latches where both its transactions reach the Device (R152, R49). -/
theorem getkeydata_clears_latches {s : State} (hselect : reaches s = true)
    (hread : reaches (selectKeysBody s) = true) :
    (bodyOf .getkeydata s).device.keyLatch = false ∧ (bodyOf .getkeydata s).device.intLatch = false := by
  rw [bodyOf, readKeysBody_device, deliver_reached hread]
  exact answered_keyData _ _ _ _ (by rw [selectKeysBody_reached hselect]; rfl)

/-- What GETKEYINT leaves of the key data and the latches where both its transactions reach the Device: its one answer byte is
what the interrupt-flag register then holds (R49, R153, R178). -/
theorem getkeyint_latches {s : State} (hselect : reaches s = true)
    (hread : reaches (selectIntFlagBody s) = true) :
    (bodyOf .getkeyint s).device.keyData = s.device.keyData ∧
    (bodyOf .getkeyint s).device.keyLatch =
      (s.device.keyLatch || answerByte (selectIntFlagBody s) 0 != 0) ∧
    (bodyOf .getkeyint s).device.intLatch =
      ((s.device.intLatch || answerByte (selectIntFlagBody s) 0 != 0) && !s.params.intflagReadClears) := by
  rw [bodyOf, readIntFlagBody_device, deliver_reached hread, selectIntFlagBody_reached hselect]
  exact answered_intFlag _ _ _ _ rfl

/-- Settles O45: the script delivers both transactions, so the reads act on the registers just selected. -/
theorem keyReadsClearLatches : Obligations.KeyReadsClearLatches := by
  intro s x b rest ⟨hf, hi⟩ hs
  have hselect : reaches s = true := reaches_scripted hs
  have hkeys : reaches (selectKeysBody s) = true := reaches_scripted (o := ⟨true, b⟩) (congrArg List.tail hs)
  have hflag : reaches (selectIntFlagBody s) = true := reaches_scripted (o := ⟨true, b⟩) (congrArg List.tail hs)
  obtain ⟨hdata, hkey, hint⟩ := getkeyint_latches hselect hflag
  have hpending : ((bodyOf .getkeyint s).keyint == some true) = (answerByte (selectIntFlagBody s) 0 != 0) := by
    rw [getkeyint_keyint]
    simp
  rw [← hpending] at hkey hint
  exact ⟨⟨_, exec_ready (i := .getkeydata) rfl hf (.inl hi), getkeydata_clears_latches hselect hkeys⟩,
    _, exec_ready (i := .getkeyint) rfl hf (.inl hi), hdata, hkey, fun hclears => hint.trans (by simp [hclears]),
    fun hkeeps => hint.trans (by simp [hkeeps])⟩

/-! ### What reaches the Device is invisible (R50) -/

theorem exists_of_sameBlock {s t : State} (h : SameBlock s t) :
    ∃ (d : Device) (o : List BusOutcome), t = { s with device := d, script := o } := ⟨_, _, h.symm⟩

/-- Which transactions reach the Device does not show in the answers. -/
theorem answerByte_congr {s t : State} (htrace : t.trace = s.trace)
    (hscript : t.script.map BusOutcome.answer = s.script.map BusOutcome.answer) : answerByte t = answerByte s := by
  funext k
  rw [answerByte_eq, answerByte_eq, htrace, hscript]

/-- In two states of the same Block that are given the same answers, a key-data read leaves the same Block. -/
theorem readKeysBody_sameBlock {s t : State} (h : SameBlock s t) (hanswer : answerByte t = answerByte s) :
    SameBlock (readKeysBody s) (readKeysBody t) := by
  obtain ⟨d, o, rfl⟩ := exists_of_sameBlock h
  simp only [SameBlock, readKeysBody, busRead, answer, hanswer]

/-- The same for an interrupt-flag read. -/
theorem readIntFlagBody_sameBlock {s t : State} (h : SameBlock s t) (hanswer : answerByte t = answerByte s) :
    SameBlock (readIntFlagBody s) (readIntFlagBody t) := by
  obtain ⟨d, o, rfl⟩ := exists_of_sameBlock h
  simp only [SameBlock, readIntFlagBody, busRead, answer, hanswer]

/-- Only the key reads take anything from the bus, and they take the answers alone. -/
theorem bodyOf_sameBlock (i : Instr) (s : State) (d : Device) {o : List BusOutcome}
    (ho : o.map BusOutcome.answer = s.script.map BusOutcome.answer) :
    SameBlock (bodyOf i s) (bodyOf i { s with device := d, script := o }) := by
  have htail : o.tail.map BusOutcome.answer = s.script.tail.map BusOutcome.answer := by
    rw [List.map_tail, ho, List.map_tail]
  cases i with
  | getkeydata => exact readKeysBody_sameBlock rfl (answerByte_congr rfl htail)
  | getkeyint => exact readIntFlagBody_sameBlock rfl (answerByte_congr rfl htail)
  | _ => rfl

/-- Settles O51: the checks of R172 read neither the Device nor the script, and no body shows what reached the
Device. -/
theorem busFailureIsInvisible : Obligations.BusFailureIsInvisible := by
  intro i s t d o ho h
  have hbody := bodyOf_sameBlock i s d ho
  exact exec_related (R := SameBlock) h rfl rfl hbody (congrArg complete hbody) (fun _ => rfl)

end Sys2Proof.Proofs
end

section
/-! PROOFS of the family 30_encoding: the fields of an operation word and the rows of the opcode map, the fields of a
command byte and the byte's one decoding, and the rows a sprite leaves. -/

namespace Sys2Proof.Proofs

open Sys2Proof.Machine Sys2Proof.Laws

/-! ### The fields of an operation word (R61) -/

section PackWord

variable (op c b a : Byte)

theorem getLsbD_packWord (i : Nat) : (packWord op c b a).getLsbD i =
    if i < 8 then a.getLsbD i else if i < 16 then b.getLsbD (i - 8)
    else if i < 24 then c.getLsbD (i - 16) else op.getLsbD (i - 24) := by
  grind [packWord]

@[simp] theorem opc_packWord : opc (packWord op c b a) = op := by
  grind [opc, getLsbD_packWord]

@[simp] theorem fieldC_packWord : fieldC (packWord op c b a) = c := by
  grind [fieldC, getLsbD_packWord]

@[simp] theorem fieldB_packWord : fieldB (packWord op c b a) = b := by
  grind [fieldB, getLsbD_packWord]

@[simp] theorem fieldA_packWord : fieldA (packWord op c b a) = a := by
  grind [fieldA, getLsbD_packWord]

end PackWord

theorem packWord_fields (w : BitVec 32) : packWord (opc w) (fieldC w) (fieldB w) (fieldA w) = w := by
  apply BitVec.eq_of_getLsbD_eq
  intro i hi
  grind [getLsbD_packWord, opc, fieldC, fieldB, fieldA]

theorem word_ext {v w : BitVec 32} (ho : opc v = opc w) (hc : fieldC v = fieldC w) (hb : fieldB v = fieldB w)
    (ha : fieldA v = fieldA w) : v = w := by
  rw [← packWord_fields v, ho, hc, hb, ha, packWord_fields]

/-- A word keeps the bits of a mask clear exactly when each of its fields keeps the mask's field clear. -/
theorem and_eq_zero_iff (w m : BitVec 32) : w &&& m = 0#32 ↔
    opc w &&& opc m = 0#8 ∧ fieldC w &&& fieldC m = 0#8 ∧ fieldB w &&& fieldB m = 0#8 ∧
    fieldA w &&& fieldA m = 0#8 := by
  simp only [opc, fieldC, fieldB, fieldA, ← BitVec.extractLsb'_and]
  constructor
  · intro h
    simp [h]
  · rintro ⟨ho, hc, hb, ha⟩
    exact word_ext ho hc hb ha

/-! The fields of a numeral, so that `simp` computes those of a mask. -/

@[simp] theorem opc_ofNat (n : Nat) : opc (BitVec.ofNat 32 n) = BitVec.ofNat 8 (n / 2 ^ 24) := by
  apply BitVec.eq_of_toNat_eq
  simp only [opc, BitVec.extractLsb'_toNat, BitVec.toNat_ofNat, Nat.shiftRight_eq_div_pow]
  omega

@[simp] theorem fieldC_ofNat (n : Nat) : fieldC (BitVec.ofNat 32 n) = BitVec.ofNat 8 (n / 2 ^ 16) := by
  apply BitVec.eq_of_toNat_eq
  simp only [fieldC, BitVec.extractLsb'_toNat, BitVec.toNat_ofNat, Nat.shiftRight_eq_div_pow]
  omega

@[simp] theorem fieldB_ofNat (n : Nat) : fieldB (BitVec.ofNat 32 n) = BitVec.ofNat 8 (n / 2 ^ 8) := by
  apply BitVec.eq_of_toNat_eq
  simp only [fieldB, BitVec.extractLsb'_toNat, BitVec.toNat_ofNat, Nat.shiftRight_eq_div_pow]
  omega

@[simp] theorem fieldA_ofNat (n : Nat) : fieldA (BitVec.ofNat 32 n) = BitVec.ofNat 8 n := by
  apply BitVec.eq_of_toNat_eq
  simp [fieldA]

/-! A field of other than 8 bits as bytes: the 16-bit row word and the 7-bit address (R82, R121). -/

theorem fieldV16_eq (w : BitVec 32) : fieldV16 w = fieldB w ++ fieldA w :=
  (BitVec.extractLsb'_append_extractLsb'_eq_extractLsb' (start₁ := 0) (len₁ := 8) (len₂ := 8) rfl).symm

@[simp] theorem fieldV16_high (w : BitVec 32) : (fieldV16 w).extractLsb' 8 8 = fieldB w := by
  rw [fieldV16_eq]
  exact BitVec.extractLsb'_append_eq_left

@[simp] theorem fieldV16_low (w : BitVec 32) : (fieldV16 w).extractLsb' 0 8 = fieldA w := by
  rw [fieldV16_eq]
  exact BitVec.extractLsb'_append_eq_right

theorem row_bytes (v : Row) : v.extractLsb' 8 8 ++ v.extractLsb' 0 8 = v := BitVec.extractLsb'_append_extractLsb'

theorem address_eq (w : BitVec 32) : w.extractLsb' 0 7 = (fieldA w).setWidth 7 :=
  (BitVec.setWidth_extractLsb'_of_le (by decide)).symm

theorem address_top (a : BitVec 7) : a.setWidth 8 &&& 0x80#8 = 0#8 := by
  revert a
  decide

theorem address_byte {a : Byte} (h : a &&& 0x80#8 = 0#8) : (a.setWidth 7).setWidth 8 = a := by
  revert a
  decide

/-! ### The opcode map with its operations (R62) -/

/-- A row of the opcode map: the opcode, its must-be-zero bits, and the operation a word with this opcode stands for. -/
structure OpcodeRow where
  opcode : Byte
  mask : BitVec 32
  operation : BitVec 32 → Instr

/-- The opcode map of R62 with the operation of each row. -/
def opcodeRows : List OpcodeRow :=
  [⟨0x01, 0x00000000, fun w => .setpixel (fieldA w) (fieldB w) (fieldC w)⟩,
   ⟨0x02, 0x00000000, fun w => .setrow (fieldC w) (fieldV16 w)⟩,
   ⟨0x03, 0x00FF0000, fun w => .setcolumn (fieldA w) (fieldB w)⟩,
   ⟨0x04, 0x00FFFFFF, fun _ => .clear⟩,
   ⟨0x05, 0x00FF0000, fun w => .drawsprite (fieldA w) (fieldB w)⟩,
   ⟨0x06, 0x00FFFFFF, fun _ => .reverse⟩,
   ⟨0x07, 0x00FFFFFF, fun _ => .flipv⟩,
   ⟨0x08, 0x00FFFFFF, fun _ => .fliph⟩,
   ⟨0x10, 0x00FFFF80, fun w => .init (w.extractLsb' 0 7)⟩,
   ⟨0x11, 0x00FFFFFF, fun _ => .wakeup⟩,
   ⟨0x12, 0x00FFFFFF, fun _ => .sleep⟩,
   ⟨0x13, 0x00FFFF00, fun w => .setbrightness (fieldA w)⟩,
   ⟨0x14, 0x00FFFF00, fun w => .setblink (fieldA w)⟩,
   ⟨0x15, 0x00FF0000, fun w => .setrowint (fieldA w) (fieldB w)⟩,
   ⟨0x16, 0x00FFFFFF, fun _ => .write⟩,
   ⟨0x17, 0x00FFFFFF, fun _ => .getkeydata⟩,
   ⟨0x18, 0x00FFFFFF, fun _ => .getkeyint⟩]

theorem opcodeMap_eq : opcodeMap = opcodeRows.map fun r => (r.opcode, r.mask) := rfl

/-- An assigned opcode is decoded as its row says, whatever the other bits (R66). -/
theorem decodeWord_row {r : OpcodeRow} (hr : r ∈ opcodeRows) {w : BitVec 32} (h : opc w = r.opcode) :
    decodeWord w = mustBeZero w r.mask (r.operation w) := by
  unfold decodeWord
  rw [h]
  fin_cases hr <;> rfl

/-- The decoding rule of each row. A row at a known place is a member by `List.mem_of_getElem?` and `rfl`. -/
theorem decodesAs_row {r : OpcodeRow} (hr : r ∈ opcodeRows) : DecodesAs r.opcode r.mask r.operation := by
  intro w h
  rw [decodeWord_row hr h]
  exact ⟨fun hm => if_neg hm, fun hm => if_pos hm⟩

/-- An opcode of no row is rejected, whatever the other bits (R66). -/
theorem decodeWord_unassigned {w : BitVec 32} (h : ∀ r ∈ opcodeRows, opc w ≠ r.opcode) :
    decodeWord w = .error (.illegalOp w) := by
  simp only [opcodeRows, List.forall_mem_cons, ne_eq, ← BitVec.toNat_inj] at h
  unfold decodeWord
  split
  case h_18 => rfl
  all_goals simp_all

theorem row_opName {r : OpcodeRow} (hr : r ∈ opcodeRows) (w : BitVec 32) :
    ∃ op, (r.operation w).opName = some op := by
  fin_cases hr <;> exact ⟨_, rfl⟩

/-- `BitVec.and_allOnes` with the mask as a numeral, the form `simp` meets. -/
theorem and_ff (x : Byte) : x &&& 0xFF#8 = x := BitVec.and_allOnes

/-- A word whose must-be-zero bits are 0 is the encoding of its row's operation: the encoder puts zeros there, and an
operand in every other bit. -/
theorem encode_row {r : OpcodeRow} (hr : r ∈ opcodeRows) {w : BitVec 32} (h : opc w = r.opcode)
    (hm : w &&& r.mask = 0#32) (p : Params) : encode p (r.operation w) = .word w := by
  rw [and_eq_zero_iff] at hm
  rw [← packWord_fields w, h]
  fin_cases hr <;> simp_all [encode, and_ff, address_eq, address_byte]

/-- The word of a Host operation decodes to it: the decoder reads each operand from the byte the encoder put it in, and
finds zeros where it asks for them. -/
theorem decode_encode_word {i : Instr} {op : OpName} (ho : i.opName = some op) (p : Params) :
    decode p (encode p i) = .ok i.core := by
  cases i with
  | sys _ | setup _ _ | dim _ | rowint _ _ | ram _ | keys | intflag => cases ho
  | setrow _ _ => simp [encode, decode, decodeWord, mustBeZero, fieldV16_eq, row_bytes, Instr.core]
  | _ => simp [encode, decode, decodeWord, mustBeZero, and_eq_zero_iff, address_eq, address_top, Instr.core]

/-! ### Fields of a byte (R70 to R74) -/

/-- The byte with the field `v` at bit `k` and zeros elsewhere. -/
def place {n : Nat} (v : BitVec n) (k : Nat) : Byte := v.setWidth 8 <<< k

/-- The bits of a byte that a field of `n` bits at bit `k` takes. -/
def fieldMask (n k : Nat) : Byte := place (BitVec.allOnes n) k

@[simp] theorem getLsbD_place {n : Nat} (v : BitVec n) (k i : Nat) :
    (place v k).getLsbD i = (decide (i < 8) && decide (k ≤ i) && v.getLsbD (i - k)) := by
  grind [place]

@[simp] theorem getLsbD_fieldMask (n k i : Nat) :
    (fieldMask n k).getLsbD i = (decide (i < 8) && decide (k ≤ i) && decide (i - k < n)) := by
  simp [fieldMask]

theorem place_and_fieldMask {n : Nat} (v : BitVec n) (k : Nat) : place v k &&& fieldMask n k = place v k := by
  apply BitVec.eq_of_getLsbD_eq
  intro i hi
  grind [getLsbD_place, getLsbD_fieldMask]

/-- A field leaves zeros wherever its mask does. -/
theorem place_and_eq_zero {n k : Nat} {mask : Byte} (h : fieldMask n k &&& mask = 0#8) (v : BitVec n) :
    place v k &&& mask = 0#8 := by
  rw [← place_and_fieldMask, BitVec.and_assoc, h, BitVec.and_zero]

/-- A field of a byte, put back in its place, is the byte under the field's mask. -/
theorem place_extractLsb' (x : Byte) (n k : Nat) : place (x.extractLsb' k n) k = x &&& fieldMask n k := by
  apply BitVec.eq_of_getLsbD_eq
  intro i hi
  grind [getLsbD_place, getLsbD_fieldMask]

/-- A field is read back from a byte that has zeros where the field is put. -/
theorem extractLsb'_or_place {n : Nat} {x : Byte} {k : Nat} (hk : k + n ≤ 8) (h : x &&& fieldMask n k = 0)
    (v : BitVec n) : (x ||| place v k).extractLsb' k n = v := by
  apply BitVec.eq_of_getLsbD_eq
  intro i hi
  have hx := congrArg (·.getLsbD (k + i)) h
  grind [getLsbD_place, getLsbD_fieldMask]

/-! A flag is a field of one bit. -/

theorem extractLsb'_one (x : Byte) (k : Nat) : x.extractLsb' k 1 = BitVec.ofBool (x.getLsbD k) := by
  grind

theorem getLsbD_of_extractLsb' {x : Byte} {k : Nat} {on : Bool} (h : x.extractLsb' k 1 = BitVec.ofBool on) :
    x.getLsbD k = on := by
  rw [extractLsb'_one] at h
  revert h
  cases x.getLsbD k <;> cases on <;> decide

/-! ### A base and its payload (R70) -/

theorem or_within {x y mask mask' : Byte} (hx : x &&& mask = x) (hy : y &&& mask' = y) :
    (x ||| y) &&& (mask ||| mask') = x ||| y := by
  grind

/-- The base is what is left when the payload bits are taken out. -/
theorem base_of_or {base mask payload : Byte} (hbase : base &&& mask = 0) (hpayload : payload &&& mask = payload) :
    (base ||| payload) &&& ~~~mask = base := by
  apply BitVec.eq_of_getLsbD_eq
  intro i hi
  have hb := congrArg (·.getLsbD i) hbase
  have hp := congrArg (·.getLsbD i) hpayload
  grind

/-- A byte is the base it carries with the byte's own payload bits. -/
theorem or_of_hasBase {b base mask : Byte} (h : hasBase b base mask = true) : base ||| (b &&& mask) = b := by
  rw [← beq_iff_eq.1 h]
  grind

/-- Two bases in the same byte agree on the bits that neither payload may use. -/
theorem bases_agree {b base mask base' mask' : Byte} (h : hasBase b base mask = true)
    (h' : hasBase b base' mask' = true) : (base ^^^ base') &&& ~~~mask &&& ~~~mask' = 0 := by
  rw [← beq_iff_eq.1 h, ← beq_iff_eq.1 h']
  grind

theorem hasBase_zero (b base : Byte) : hasBase b base 0 = true ↔ b = base := by
  have h : b &&& ~~~(0 : Byte) = b := BitVec.and_allOnes
  rw [hasBase, h, beq_iff_eq]

section Fields

variable {n m k l : Nat} {base : Byte}

/-- A command byte of one field: its base and the field. -/
theorem one_field (hk : k + n ≤ 8) (hbase : base &&& fieldMask n k = 0) (v : BitVec n) :
    (base ||| place v k) &&& ~~~fieldMask n k = base ∧ (base ||| place v k).extractLsb' k n = v :=
  ⟨base_of_or hbase (place_and_fieldMask v k), extractLsb'_or_place hk hbase v⟩

/-- A command byte of two fields apart from each other: its base and both fields. -/
theorem two_fields (hk : k + n ≤ 8) (hl : l + m ≤ 8) (hbase : base &&& (fieldMask n k ||| fieldMask m l) = 0)
    (hapart : fieldMask n k &&& fieldMask m l = 0) (v : BitVec n) (u : BitVec m) :
    (base ||| place v k ||| place u l) &&& ~~~(fieldMask n k ||| fieldMask m l) = base ∧
    (base ||| place v k ||| place u l).extractLsb' k n = v ∧
    (base ||| place v k ||| place u l).extractLsb' l m = u := by
  obtain ⟨hbase₁, hbase₂⟩ := BitVec.or_eq_zero_iff.1 (BitVec.and_or_distrib_left.symm.trans hbase)
  have h₁ : (base ||| place u l) &&& fieldMask n k = 0#8 := by
    rw [BitVec.and_or_distrib_right, hbase₁, place_and_eq_zero (BitVec.and_comm _ _ ▸ hapart), BitVec.or_zero]
  have h₂ : (base ||| place v k) &&& fieldMask m l = 0#8 := by
    rw [BitVec.and_or_distrib_right, hbase₂, place_and_eq_zero hapart, BitVec.or_zero]
  refine ⟨?_, ?_, extractLsb'_or_place hl h₂ u⟩
  · rw [BitVec.or_assoc]
    exact base_of_or hbase (or_within (place_and_fieldMask v k) (place_and_fieldMask u l))
  · rw [BitVec.or_assoc, BitVec.or_comm (place v k), ← BitVec.or_assoc]
    exact extractLsb'_or_place hk h₁ v

/-! The fields read from a byte and put back over its base give the byte. -/

theorem one_field_back {b : Byte} (h : hasBase b base (fieldMask n k) = true) :
    base ||| place (b.extractLsb' k n) k = b := by
  rw [place_extractLsb', or_of_hasBase h]

theorem two_fields_back {b : Byte} (h : hasBase b base (fieldMask n k ||| fieldMask m l) = true) :
    base ||| place (b.extractLsb' k n) k ||| place (b.extractLsb' l m) l = b := by
  rw [place_extractLsb', place_extractLsb', BitVec.or_assoc, ← BitVec.and_or_distrib_left, or_of_hasBase h]

end Fields

/-! ### The command bytes as a base and its fields (R71 to R74) -/

theorem sysByte_eq (p : Params) (on : Bool) : sysByte p on = p.cmdSystem ||| place (BitVec.ofBool on) 0 := by
  simp [sysByte, place]

theorem setupByte_eq (p : Params) (on : Bool) (blink : BitVec 2) : setupByte p on blink =
    p.cmdSetup ||| place (BitVec.ofBool on) p.setupOnBit.val ||| place blink p.setupBlinkLsb.val := rfl

theorem dimByte_eq (p : Params) (l : BitVec 4) : dimByte p l = p.cmdDimming ||| place l 0 := by
  simp [dimByte, place]

theorem rowintByte_eq (p : Params) (ri act : Bool) :
    rowintByte p ri act = p.cmdRowint ||| place (BitVec.ofBool act) 1 ||| place (BitVec.ofBool ri) 0 := by
  simp [rowintByte, place]

theorem wf_parts {p : Params} (h : p.wf = true) :
    (∀ c ∈ p.classes, c.1 &&& c.2 = 0) ∧ p.setupBlinkLsb.val ≤ 6 ∧ p.onMask &&& p.blinkMask = 0 ∧
    p.classes.Pairwise fun c d => (c.1 ^^^ d.1) &&& ~~~c.2 &&& ~~~d.2 ≠ 0 := by
  simpa only [Params.wf, Bool.and_eq_true, List.all_eq_true, beq_iff_eq, decide_eq_true_eq, and_assoc] using h

section CommandBytes

variable {p : Params} (hwf : p.wf = true)
include hwf

/-- No base uses a bit of its payload (R70). -/
theorem base_and_mask {j : Nat} {base mask : Byte} (hj : p.classes[j]? = some (base, mask)) : base &&& mask = 0 := by
  obtain ⟨hbases, -⟩ := wf_parts hwf
  exact hbases _ (List.mem_of_getElem? hj)

theorem sysByte_fields (on : Bool) : sysByte p on &&& ~~~0x01 = p.cmdSystem ∧ (sysByte p on).getLsbD 0 = on := by
  have hbase := base_and_mask hwf (j := 0) rfl
  obtain ⟨hleft, hon⟩ := one_field (n := 1) (k := 0) (by decide) hbase (BitVec.ofBool on)
  rw [sysByte_eq]
  exact ⟨hleft, getLsbD_of_extractLsb' hon⟩

theorem setupByte_fields (on : Bool) (blink : BitVec 2) :
    setupByte p on blink &&& ~~~(p.onMask ||| p.blinkMask) = p.cmdSetup ∧
    (setupByte p on blink).getLsbD p.setupOnBit.val = on ∧
    (setupByte p on blink).extractLsb' p.setupBlinkLsb.val 2 = blink := by
  have hbase := base_and_mask hwf (j := 1) rfl
  obtain ⟨-, hlsb, hapart, -⟩ := wf_parts hwf
  obtain ⟨hleft, hon, hblink⟩ := two_fields (n := 1) (m := 2) (k := p.setupOnBit) (l := p.setupBlinkLsb) (by omega)
    (by omega) hbase hapart (BitVec.ofBool on) blink
  exact ⟨hleft, getLsbD_of_extractLsb' hon, hblink⟩

theorem dimByte_fields (l : BitVec 4) :
    dimByte p l &&& ~~~0x0F = p.cmdDimming ∧ (dimByte p l).extractLsb' 0 4 = l := by
  rw [dimByte_eq]
  exact one_field (n := 4) (k := 0) (by decide) (base_and_mask hwf (j := 2) rfl) l

theorem rowintByte_fields (ri act : Bool) :
    rowintByte p ri act &&& ~~~0x03 = p.cmdRowint ∧ (rowintByte p ri act).getLsbD 0 = ri ∧
    (rowintByte p ri act).getLsbD 1 = act := by
  have hbase := base_and_mask hwf (j := 3) rfl
  obtain ⟨hleft, hact, hri⟩ := two_fields (n := 1) (m := 1) (k := 1) (l := 0) (by decide) (by decide) hbase rfl
    (BitVec.ofBool act) (BitVec.ofBool ri)
  rw [rowintByte_eq]
  exact ⟨hleft, getLsbD_of_extractLsb' hri, getLsbD_of_extractLsb' hact⟩

end CommandBytes

/-! ### The command a byte stands for (R71 to R75) -/

/-- What the command byte `b` stands for: a command whose base it carries, with the payload read from its fields. -/
inductive StandsFor (p : Params) (b : Byte) : Instr → Prop
  | sys (h : hasBase b p.cmdSystem 0x01 = true) : StandsFor p b (.sys (b.getLsbD 0))
  | setup (h : hasBase b p.cmdSetup (p.onMask ||| p.blinkMask) = true) :
      StandsFor p b (.setup (b.getLsbD p.setupOnBit.val) ((b >>> p.setupBlinkLsb.val).setWidth 2))
  | dim (h : hasBase b p.cmdDimming 0x0F = true) : StandsFor p b (.dim (b.setWidth 4))
  | rowint (h : hasBase b p.cmdRowint 0x03 = true) : StandsFor p b (.rowint (b.getLsbD 0) (b.getLsbD 1))
  | keys (h : b = p.cmdKeys) : StandsFor p b .keys
  | intflag (h : b = p.cmdIntflag) : StandsFor p b .intflag

theorem StandsFor.wf {p : Params} {b : Byte} {i : Instr} (h : StandsFor p b i) : i.wf = true := by
  cases h <;> rfl

theorem standsFor_of_decodeCommand {p : Params} {b : Byte} {i : Instr} (h : decodeCommand p b = some i) :
    StandsFor p b i := by
  unfold decodeCommand at h
  split_ifs at h with hsys hsetup hdim hrowint hkeys hintflag <;> cases h
  · exact .sys hsys
  · exact .setup hsetup
  · exact .dim hdim
  · exact .rowint hrowint
  · exact .keys hkeys
  · exact .intflag hintflag

/-- A transaction that decodes is a display-RAM write of 16 bytes, or one byte that stands for its command. -/
theorem decodeTx_ok {p : Params} {bytes : List Byte} {i : Instr} (h : decodeTx p bytes = .ok i) :
    (∃ payload, payload.length = 16 ∧ bytes = p.cmdRam :: payload ∧ i = .ram payload) ∨
    (∃ b, bytes = [b] ∧ StandsFor p b i) := by
  unfold decodeTx at h
  split at h
  · cases h
  · split at h
    · split at h <;> cases h
      next hram hlen => exact .inl ⟨_, hlen, hram ▸ rfl, rfl⟩
    · split at h <;> cases h
      next hcmd => exact .inr ⟨_, rfl, standsFor_of_decodeCommand hcmd⟩

/-- A byte is the encoding of the command it stands for. -/
theorem StandsFor.encode {p : Params} {b : Byte} {i : Instr} (h : StandsFor p b i) : encode p i = .bytes [b] := by
  cases h with
  | sys h => rw [Sys2Proof.encode, sysByte_eq, ← extractLsb'_one, one_field_back (n := 1) (k := 0) h]
  | setup h =>
    rw [Sys2Proof.encode, setupByte_eq, ← extractLsb'_one, BitVec.setWidth_ushiftRight_eq_extractLsb,
      two_fields_back (n := 1) (m := 2) h]
  | dim h =>
    rw [Sys2Proof.encode, dimByte_eq, BitVec.setWidth_eq_extractLsb' (by decide),
      one_field_back (n := 4) (k := 0) h]
  | rowint h =>
    rw [Sys2Proof.encode, rowintByte_eq, ← extractLsb'_one, ← extractLsb'_one,
      two_fields_back (n := 1) (k := 1) (m := 1) (l := 0) h]
  | keys h => rw [h, Sys2Proof.encode]
  | intflag h => rw [h, Sys2Proof.encode]

section WellFormed

variable {p : Params} (hwf : p.wf = true)
include hwf

/-- No byte belongs to two commands (log entry 3): the class whose base a byte carries is the only one. -/
theorem hasBase_class {b base mask : Byte} {i : Nat} (hi : p.classes[i]? = some (base, mask))
    (h : hasBase b base mask = true) {base' mask' : Byte} {j : Nat} (hj : p.classes[j]? = some (base', mask')) :
    hasBase b base' mask' = decide (i = j) := by
  by_cases hij : i = j
  · subst hij
    obtain ⟨rfl, rfl⟩ := Prod.mk.inj (Option.some.inj (hi.symm.trans hj))
    rw [h, decide_eq_true rfl]
  · rw [decide_eq_false hij, ← Bool.not_eq_true]
    intro h'
    obtain ⟨-, -, -, hapart⟩ := wf_parts hwf
    rw [List.pairwise_iff_getElem] at hapart
    obtain ⟨hilt, hi⟩ := List.getElem?_eq_some_iff.1 hi
    obtain ⟨hjlt, hj⟩ := List.getElem?_eq_some_iff.1 hj
    obtain hlt | hlt := Nat.lt_or_gt_of_ne hij
    · exact hapart i j hilt hjlt hlt (by rw [hi, hj]; exact bases_agree h h')
    · exact hapart j i hjlt hilt hlt (by rw [hi, hj]; exact bases_agree h' h)

/-- The tests of the transaction decoder on a byte that carries the base of class `i`: only that class's succeeds. -/
theorem decoder_tests {b base mask : Byte} {i : Nat} (hi : p.classes[i]? = some (base, mask))
    (h : hasBase b base mask = true) :
    hasBase b p.cmdSystem 0x01#8 = decide (i = 0) ∧
    hasBase b p.cmdSetup (p.onMask ||| p.blinkMask) = decide (i = 1) ∧
    hasBase b p.cmdDimming 0x0F#8 = decide (i = 2) ∧ hasBase b p.cmdRowint 0x03#8 = decide (i = 3) ∧
    (b = p.cmdRam ↔ i = 4) ∧ (b = p.cmdKeys ↔ i = 5) ∧ (b = p.cmdIntflag ↔ i = 6) := by
  have test {j : Nat} {base' mask' : Byte} (hj : p.classes[j]? = some (base', mask')) :
      hasBase b base' mask' = decide (i = j) := hasBase_class hwf hi h hj
  have select {j : Nat} {base' : Byte} (hj : p.classes[j]? = some (base', 0)) : b = base' ↔ i = j := by
    rw [← hasBase_zero, test hj, decide_eq_true_iff]
  exact ⟨test rfl, test rfl, test rfl, test rfl, select rfl, select rfl, select rfl⟩

/-- A byte alone decodes to the command it stands for: no test before that command's own succeeds. -/
theorem StandsFor.decodeTx {b : Byte} {i : Instr} (h : StandsFor p b i) : decodeTx p [b] = .ok i := by
  have tests {k : Nat} {base mask : Byte} := decoder_tests hwf (b := b) (i := k) (base := base) (mask := mask)
  cases h with
  | sys h => simp [Sys2Proof.decodeTx, decodeCommand, tests (k := 0) rfl h]
  | setup h => simp [Sys2Proof.decodeTx, decodeCommand, tests (k := 1) rfl h]
  | dim h => simp [Sys2Proof.decodeTx, decodeCommand, tests (k := 2) rfl h]
  | rowint h => simp [Sys2Proof.decodeTx, decodeCommand, tests (k := 3) rfl h]
  | keys h => simp [Sys2Proof.decodeTx, decodeCommand, tests (k := 5) rfl ((hasBase_zero _ _).2 h)]
  | intflag h => simp [Sys2Proof.decodeTx, decodeCommand, tests (k := 6) rfl ((hasBase_zero _ _).2 h)]

/-! Every command byte stands for its command. -/

theorem sysByte_standsFor (on : Bool) : StandsFor p (sysByte p on) (.sys on) := by
  obtain ⟨hbase, hon⟩ := sysByte_fields hwf on
  simpa only [hon] using StandsFor.sys (beq_iff_eq.2 hbase)

theorem setupByte_standsFor (on : Bool) (blink : BitVec 2) :
    StandsFor p (setupByte p on blink) (.setup on blink) := by
  obtain ⟨hbase, hon, hblink⟩ := setupByte_fields hwf on blink
  simpa only [hon, BitVec.setWidth_ushiftRight_eq_extractLsb, hblink] using StandsFor.setup (beq_iff_eq.2 hbase)

theorem dimByte_standsFor (l : BitVec 4) : StandsFor p (dimByte p l) (.dim l) := by
  obtain ⟨hbase, hl⟩ := dimByte_fields hwf l
  have h := StandsFor.dim (beq_iff_eq.2 hbase)
  rwa [BitVec.setWidth_eq_extractLsb' (by decide), hl] at h

theorem rowintByte_standsFor (ri act : Bool) : StandsFor p (rowintByte p ri act) (.rowint ri act) := by
  obtain ⟨hbase, hri, hact⟩ := rowintByte_fields hwf ri act
  simpa only [hri, hact] using StandsFor.rowint (beq_iff_eq.2 hbase)

theorem decode_encode_command {i : Instr} (ho : i.opName = none) (hi : i.wf = true) :
    decode p (encode p i) = .ok i.core := by
  cases i with
  | sys on => exact (sysByte_standsFor hwf on).decodeTx hwf
  | setup on blink => exact (setupByte_standsFor hwf on blink).decodeTx hwf
  | dim l => exact (dimByte_standsFor hwf l).decodeTx hwf
  | rowint ri act => exact (rowintByte_standsFor hwf ri act).decodeTx hwf
  | ram payload =>
    have hlen : payload.length = 16 := by simpa [Instr.wf] using hi
    simp [encode, decode, decodeTx, hlen, Instr.core]
  | keys => exact StandsFor.decodeTx hwf (.keys rfl)
  | intflag => exact StandsFor.decodeTx hwf (.intflag rfl)
  | _ => cases ho

end WellFormed

/-! ### The decoders and the encoder -/

/-- Settles O15: a Host operation is an operation word, every other instruction a transaction. -/
theorem decodeOfEncode : Obligations.DecodeOfEncode := by
  intro p i hwf hi
  cases ho : i.opName with
  | some op => exact decode_encode_word ho p
  | none => exact decode_encode_command hwf ho hi

/-- Settles O10, row by row of the opcode map. -/
theorem decoderIsTotalInOrder : Obligations.DecoderIsTotalInOrder := by
  intro w
  simp only [opcodeMap_eq, List.forall_mem_map]
  refine ⟨decodeWord_unassigned, fun r hr h => ?_⟩
  obtain ⟨hreserved, hdecodes⟩ := decodesAs_row hr w h
  obtain ⟨op, ho⟩ := row_opName hr w
  exact ⟨hreserved, fun hm => ⟨_, op, hdecodes hm, ho, encode_row hr h hm _⟩⟩

/-- Settles O16: the bits outside a byte's payload are its base, so nothing of the byte is lost in decoding it. -/
theorem decodedTransactionEncodesBack : Obligations.DecodedTransactionEncodesBack := by
  intro p bytes i _ h
  obtain ⟨payload, hlen, rfl, rfl⟩ | ⟨b, rfl, hb⟩ := decodeTx_ok h
  · exact ⟨rfl, beq_iff_eq.2 hlen, rfl⟩
  · exact ⟨hb.encode, hb.wf, decodeTx_opName h⟩

/-- Settles O19: each payload is one field, or two apart from each other, over a base that leaves its bits zero. -/
theorem commandByteLayout : Obligations.CommandByteLayout := fun _ hwf =>
  ⟨sysByte_fields hwf, setupByte_fields hwf, dimByte_fields hwf, rowintByte_fields hwf⟩

/-! ### The rows a sprite leaves (R85) -/

/-- A shifted row ORed into buffer row `i` adds its lit pixels there and changes no other row. -/
theorem orRow_getLsbD (b : Rows) (i q : BitVec 3) (v : Row) (a : Byte) {c : Nat} (hc : c < 16) :
    (getRow (putRow b i (getRow b i ||| shiftRow v a)) q).getLsbD c = true ↔
      (getRow b q).getLsbD c = true ∨ (q = i ∧ a.toNat ≤ c ∧ v.getLsbD (c - a.toNat) = true) := by
  rw [getRow_putRow]
  split
  · next h => rw [← h, BitVec.getLsbD_or, shiftRow_getLsbD v a c hc]; simp
  · next h => simp [h]

theorem exists_row_cons {P : Nat → Row → Prop} {v : Row} {rows : List Row} :
    (∃ k u, (v :: rows)[k]? = some u ∧ P k u) ↔ P 0 v ∨ ∃ k u, rows[k]? = some u ∧ P (k + 1) u := by
  rw [← Nat.or_exists_add_one]
  simp

/-- The loop of R85 from sprite row `r` on, by pixels: what was lit stays lit, and each row lights its pixels, moved, in
its buffer row. -/
theorem drawRows_getLsbD (colOffset rowOffset : Byte) (rows : List Row) (r : Nat) (b : Rows) (q : BitVec 3) {c : Nat}
    (hc : c < 16) :
    (getRow (drawRows colOffset rowOffset r rows b) q).getLsbD c = true ↔
      (getRow b q).getLsbD c = true ∨
        ∃ k v, rows[k]? = some v ∧ (r + k + rowOffset.toNat) % 8 = q.toNat ∧ colOffset.toNat ≤ c ∧
          v.getLsbD (c - colOffset.toNat) = true := by
  induction rows generalizing r b with
  | nil => simp [drawRows]
  | cons v rows ih =>
    have hslot : q = BitVec.ofNat 3 ((r + rowOffset.toNat) % 8) ↔ (r + rowOffset.toNat) % 8 = q.toNat := by
      rw [← BitVec.toNat_inj, BitVec.toNat_ofNat, Nat.mod_mod, eq_comm]
    have hnext (k : Nat) : r + 1 + k = r + (k + 1) := by omega
    rw [drawRows, ih, orRow_getLsbD _ _ _ _ _ hc, hslot, exists_row_cons, or_assoc]
    simp only [hnext, Nat.add_zero]

theorem drawRows_origin_pixel (rows : List Row) (b : Rows) {r c : Nat} (hr : r < 8) (hc : c < 16) :
    pixel (drawRows 0 0 0 rows b) r c = true ↔
      pixel b r c = true ∨ ∃ k v, rows[k]? = some v ∧ k % 8 = r ∧ v.getLsbD c = true := by
  have hr' : (BitVec.ofNat 3 r).toNat = r := Nat.mod_eq_of_lt hr
  rw [pixel, pixel, Nat.mod_eq_of_lt hc, drawRows_getLsbD 0 0 rows 0 b _ hc, hr']
  simp

theorem pixel_fin (b : Rows) (r : Fin 8) {c : Nat} (hc : c < 16) : pixel b r c = b[r].getLsbD c := by
  simp [pixel, getRow, Nat.mod_eq_of_lt hc]

/-- At most 8 rows drawn without offsets on a cleared buffer: each stands alone in the buffer row of its own number. -/
theorem drawRows_cleared {rows : List Row} {b : Rows} (hb : ∀ r : Fin 8, b[r] = 0) (hheight : rows.length ≤ 8)
    (r : Fin 8) : (drawRows 0 0 0 rows b)[r] = rows[r.val]?.getD 0 := by
  apply BitVec.eq_of_getLsbD_eq
  intro c hc
  have hpixel := drawRows_origin_pixel rows b r.isLt hc
  rw [pixel_fin _ _ hc, pixel_fin _ _ hc, hb r] at hpixel
  rw [Bool.eq_iff_iff, hpixel]
  constructor
  · rintro (hdark | ⟨k, v, hk, hkr, hv⟩)
    · simp at hdark
    · have hk8 : k < 8 := (List.getElem?_eq_some_iff.1 hk).1.trans_le hheight
      rw [Nat.mod_eq_of_lt hk8] at hkr
      rw [← hkr, hk]
      exact hv
  · intro hv
    cases hk : rows[r.val]? with
    | none => simp [hk] at hv
    | some v => exact .inr ⟨r, v, hk, Nat.mod_eq_of_lt r.isLt, by simpa [hk] using hv⟩

/-- Settles O25: both are the same word and run the same body, in which the offsets are 0. -/
theorem offsetFreeDrawSprite : Obligations.OffsetFreeDrawSprite := by
  refine ⟨fun _ => rfl, fun _ => rfl, fun s ⟨hf, hi⟩ => ⟨_, exec_ready (i := .drawspriteOrigin) rfl hf (.inl hi), ?_⟩⟩
  intro r c hr hc
  exact drawRows_origin_pixel _ _ hr hc

/-- Settles O27: up to height 8 no two rows of the sprite fall into one buffer row. -/
theorem spriteOnClearedBuffer : Obligations.SpriteOnClearedBuffer := by
  intro s ⟨hf, hi⟩ hclear hheight
  exact ⟨_, exec_ready (i := .drawsprite 0 0) rfl hf (.inl hi), exec_ready (i := .drawspriteOrigin) rfl hf (.inl hi),
    drawRows_cleared hclear hheight⟩

end Sys2Proof.Proofs
end

section
/-! PROOFS of the family 40_buffer_ops: what each buffer operation makes of the pixels, its word and its faults, and the
frame of all of them. -/

namespace Sys2Proof.Proofs

open Sys2Proof.Machine Sys2Proof.Laws

/-! ### Words and faults -/

/-- The two faults of every operation but INIT (R26, R172). -/
theorem faultsAs_of_opName {i : Instr} {op : OpName} (ho : i.opName = some op) (hop : op ≠ .init) : FaultsAs op i :=
  fun _ => ⟨exec_notInitialised ho hop, fun _ => exec_stuck ho⟩

/-- An opcode without must-be-zero bits always decodes (R66). -/
theorem decodeWord_row_of_mask_zero {r : OpcodeRow} (hr : r ∈ opcodeRows) (hm : r.mask = 0#32) (w : BitVec 32)
    (h : opc w = r.opcode) : decodeWord w = .ok (r.operation w) := by
  rw [decodeWord_row hr h, mustBeZero, hm]
  exact if_pos BitVec.and_zero

/-! ### Pixels -/

@[simp] theorem rowOf_toNat (row : Byte) : (rowOf row).toNat = row.toNat % 8 := by simp [rowOf]

@[simp] theorem colOf_toNat (col : Byte) : (colOf col).toNat = col.toNat % 16 := by simp [colOf]

theorem ofNat_eq_row_iff {r : Nat} (hr : r < 8) (q : BitVec 3) : BitVec.ofNat 3 r = q ↔ r = q.toNat := by
  rw [← BitVec.toNat_inj, BitVec.toNat_ofNat, Nat.mod_eq_of_lt hr]

/-- Two buffers are equal when they agree on every pixel. -/
theorem rows_eq_of_pixel {a b : Rows} (h : ∀ r c, r < 8 → c < 16 → pixel a r c = pixel b r c) : a = b := by
  refine rows_ext a b fun q => BitVec.eq_of_getLsbD_eq fun c hc => ?_
  simpa [pixel, Nat.mod_eq_of_lt hc] using h q.toNat c q.isLt hc

section Pixel

variable (b : Rows) {r c : Nat} (hr : r < 8) (hc : c < 16)
include hr hc

theorem pixel_putRow (q : BitVec 3) (v : Row) :
    pixel (putRow b q v) r c = if r = q.toNat then v.getLsbD c else pixel b r c := by
  simp only [pixel, getRow_putRow, ofNat_eq_row_iff hr, Nat.mod_eq_of_lt hc]
  split <;> rfl

theorem pixel_setPixelStep (col row val : Byte) :
    pixel (setPixelStep b col row val) r c =
      if r = row.toNat % 8 ∧ c = col.toNat % 16 then val.getLsbD 0 else pixel b r c := by
  rw [setPixelStep, pixel_putRow b hr hc, putBit_getLsbD _ _ _ _ hc, rowOf_toNat, colOf_toNat, valOf]
  by_cases hrow : r = row.toNat % 8
  · have hq : BitVec.ofNat 3 r = rowOf row := (ofNat_eq_row_iff hr _).2 (by rw [hrow, rowOf_toNat])
    simp [← hrow, ← hq, pixel, Nat.mod_eq_of_lt hc]
  · simp [hrow]

/-- The loop of R83 after its first `n` rows: those have the column's new pixel, the others are as they were. -/
theorem pixel_setColumnRows_range (col value : Byte) {n : Nat} (hn : n ≤ 8) :
    pixel ((List.range n).foldl (fun b r => setPixelStep b col (BitVec.ofNat 8 r) ((value >>> r) &&& 1)) b) r c =
      if r < n ∧ c = col.toNat % 16 then value.getLsbD r else pixel b r c := by
  induction n with
  | zero => simp
  | succ n ih =>
    have hbit : ((value >>> n) &&& 1).getLsbD 0 = value.getLsbD n := by simp
    have hrow : (BitVec.ofNat 8 n).toNat % 8 = n := by rw [BitVec.toNat_ofNat]; omega
    rw [List.range_succ, List.foldl_append, List.foldl_cons, List.foldl_nil, pixel_setPixelStep _ hr hc, hrow, hbit,
      ih (by omega)]
    by_cases hr' : r = n
    · simp [hr']
    · have hlt : r < n + 1 ↔ r < n := by omega
      simp [hr', hlt]

theorem pixel_setColumnRows (col value : Byte) :
    pixel (setColumnRows b col value) r c = if c = col.toNat % 16 then value.getLsbD r else pixel b r c := by
  rw [setColumnRows, pixel_setColumnRows_range b hr hc col value le_rfl]
  simp [hr]

theorem pixel_drawRows (colOffset rowOffset : Byte) (rows : List Row) :
    pixel (drawRows colOffset rowOffset 0 rows b) r c = true ↔
      pixel b r c = true ∨
        ∃ k v, rows[k]? = some v ∧ (k + rowOffset.toNat) % 8 = r ∧ colOffset.toNat ≤ c ∧
          v.getLsbD (c - colOffset.toNat) = true := by
  have hrow : (BitVec.ofNat 3 r).toNat = r := Nat.mod_eq_of_lt hr
  simpa only [pixel, Nat.mod_eq_of_lt hc, hrow, Nat.zero_add] using
    drawRows_getLsbD colOffset rowOffset rows 0 b (BitVec.ofNat 3 r) hc

/-- Setting a pixel and clearing it again leaves it 0, whatever it was, and every other pixel as it was. -/
theorem pixel_set_then_clear (col row : Byte) :
    pixel (setPixelStep (setPixelStep b col row 1) col row 0) r c =
      if r = row.toNat % 8 ∧ c = col.toNat % 16 then false else pixel b r c := by
  rw [pixel_setPixelStep _ hr hc, pixel_setPixelStep _ hr hc]
  split <;> simp

end Pixel

/-- So the pair restores the buffer exactly when the pixel was 0 (R86). -/
theorem set_then_clear_eq_iff (b : Rows) (col row : Byte) :
    setPixelStep (setPixelStep b col row 1) col row 0 = b ↔ pixel b (row.toNat % 8) (col.toNat % 16) = false := by
  have hrow : row.toNat % 8 < 8 := Nat.mod_lt _ (by decide)
  have hcol : col.toNat % 16 < 16 := Nat.mod_lt _ (by decide)
  constructor
  · intro heq
    have hpixel := pixel_set_then_clear b hrow hcol col row
    rwa [heq, if_pos ⟨rfl, rfl⟩] at hpixel
  · intro hdark
    refine rows_eq_of_pixel fun r c hr hc => ?_
    rw [pixel_set_then_clear b hr hc]
    split
    · next h =>
      obtain ⟨rfl, rfl⟩ := h
      exact hdark.symm
    · rfl

/-! ### The operations -/

/-- Settles O24: sprite row `k` lights its pixels, moved, in its buffer row, by induction on the sprite's rows. -/
theorem drawSpriteRule : Obligations.DrawSpriteRule :=
  ⟨decodesAs_row (List.mem_of_getElem? (i := 4) rfl), fun _ _ => faultsAs_of_opName rfl (by decide),
    fun colOffset rowOffset s ⟨hf, hi⟩ => ⟨_, exec_ready (i := .drawsprite colOffset rowOffset) rfl hf (.inl hi),
      fun _ _ hr hc => pixel_drawRows s.buf hr hc colOffset rowOffset _⟩⟩

/-- Settles O20: one bit of one row is written. -/
theorem setPixelRule : Obligations.SetPixelRule :=
  ⟨decodeWord_row_of_mask_zero (List.mem_of_getElem? (i := 0) rfl) rfl,
    fun _ _ _ => faultsAs_of_opName rfl (by decide),
    fun col row val s ⟨hf, hi⟩ => ⟨_, exec_ready (i := .setpixel col row val) rfl hf (.inl hi),
      fun _ _ hr hc => pixel_setPixelStep s.buf hr hc col row val⟩⟩

/-- Settles O21: the row written reads as the value, the others as before. -/
theorem setRowRule : Obligations.SetRowRule :=
  ⟨decodeWord_row_of_mask_zero (List.mem_of_getElem? (i := 1) rfl) rfl,
    fun _ _ => faultsAs_of_opName rfl (by decide),
    fun row value s ⟨hf, hi⟩ => ⟨_, exec_ready (i := .setrow row value) rfl hf (.inl hi),
      fun _ _ hr hc => rowOf_toNat row ▸ pixel_putRow s.buf hr hc (rowOf row) value⟩⟩

/-- Settles O22: the loop over all eight rows, by induction on how many it has written. -/
theorem setColumnRule : Obligations.SetColumnRule :=
  ⟨decodesAs_row (List.mem_of_getElem? (i := 2) rfl), fun _ _ => faultsAs_of_opName rfl (by decide),
    fun col value s ⟨hf, hi⟩ => ⟨_, exec_ready (i := .setcolumn col value) rfl hf (.inl hi),
      fun _ _ hr hc => pixel_setColumnRows s.buf hr hc col value⟩⟩

/-- Settles O26: the second SETPIXEL runs where the first completed, on the same pixel. -/
theorem setThenClearPixel : Obligations.SetThenClearPixel := by
  intro col row s ⟨hf, hi⟩
  exact ⟨_, _, exec_ready (i := .setpixel col row 1) rfl hf (.inl hi),
    exec_ready (i := .setpixel col row 0) rfl hf (.inl hi),
    fun r c hr hc => pixel_set_then_clear s.buf hr hc col row, set_then_clear_eq_iff s.buf col row⟩

/-- Settles O34: the pipeline of WRITE makes zero bytes of a cleared buffer under all flags. -/
theorem clearThenWriteSendsZeros : Obligations.ClearThenWriteSendsZeros := by
  intro s ⟨hf, hi⟩
  have hcleared : payload (complete (bodyOf .clear s)) = List.replicate 16 0 := payload_cleared rfl
  refine ⟨_, _, exec_ready (i := .clear) rfl hf (.inl hi), exec_ready (i := .write) rfl hf (.inl hi), ?_⟩
  rw [← hcleared]
  rfl

/-- Settles O23: the cleared buffer holds 0 in every row. -/
theorem clearRule : Obligations.ClearRule :=
  ⟨decodesAs_row (List.mem_of_getElem? (i := 3) rfl), faultsAs_of_opName rfl (by decide),
    fun _ ⟨hf, hi⟩ => ⟨_, exec_ready (i := .clear) rfl hf (.inl hi), fun r => getRow_cleared (BitVec.ofFin r)⟩⟩

/-! ### The frame -/

/-- SETPIXEL, SETROW, SETCOLUMN, CLEAR, DRAWSPRITE and the offset-free DRAWSPRITE: the operations that write the buffer
and nothing else (R80). -/
def IsBufferOp (i : Instr) : Prop :=
  (∃ col row val, i = .setpixel col row val) ∨ (∃ row value, i = .setrow row value) ∨
    (∃ col value, i = .setcolumn col value) ∨ i = .clear ∨ (∃ c r, i = .drawsprite c r) ∨ i = .drawspriteOrigin

theorem IsBufferOp.opName {i : Instr} (hi : IsBufferOp i) : ∃ op, i.opName = some op ∧ op ≠ .init := by
  obtain ⟨_, _, _, rfl⟩ | ⟨_, _, rfl⟩ | ⟨_, _, rfl⟩ | rfl | ⟨_, _, rfl⟩ | rfl := hi <;> exact ⟨_, rfl, by decide⟩

theorem IsBufferOp.body {i : Instr} (hi : IsBufferOp i) (s : State) :
    bodyOf i s = { s with buf := (bodyOf i s).buf, pc := (bodyOf i s).pc, fault := (bodyOf i s).fault } := by
  obtain ⟨_, _, _, rfl⟩ | ⟨_, _, rfl⟩ | ⟨_, _, rfl⟩ | rfl | ⟨_, _, rfl⟩ | rfl := hi <;> rfl

/-- Settles O53: the operation is completed and its body wrote the buffer alone, or a fault and nothing else. -/
theorem bufferOperationsFrame : Obligations.BufferOperationsFrame := by
  intro i s t hi h
  have hbuffer : IsBufferOp i := hi
  obtain ⟨op, ho, hop⟩ := hbuffer.opName
  rw [exec_hostOp i op s ho hop] at h
  obtain ⟨hf, ⟨hinit, rfl⟩ | ⟨huninit, rfl⟩⟩ := hostOp_next h
  · have hbody := hbuffer.body s
    exact ⟨congrArg complete hbody, fun _ => by simpa using hf, fun huninit => by simp [hinit] at huninit,
      fun a => congrArg (fun u => u.device.ram.read a) hbody⟩
  · exact ⟨rfl, fun hinit => by simp [huninit] at hinit, fun _ => rfl, fun _ => rfl⟩

end Sys2Proof.Proofs
end

section
/-! PROOFS of the family 41_orientation: bit reversal, the bytes the pipeline makes of the buffer under the flags, and the
three toggles. -/

namespace Sys2Proof.Proofs

open Sys2Proof.Machine Sys2Proof.Laws

/-! ### Bit reversal (R103, R104, R108) -/

/-- The bit that round `n` of R103's loop ORs in: bit `n` of `v`, at place `15 - n`. -/
theorem rev16_round_getLsbD (v : Row) {n i : Nat} (hn : n < 16) (hi : i < 16) :
    ((BitVec.ofBool (v.getLsbD n)).setWidth 16 <<< (15 - n)).getLsbD i = (decide (n = 15 - i) && v.getLsbD n) := by
  by_cases h : n = 15 - i
  · have hplace : 15 - n = i := by omega
    rw [hplace]
    simp [h, hi]
  · have hplace : i < 15 - n ∨ i - (15 - n) ≠ 0 := by omega
    obtain hbelow | habove := hplace
    · simp [h, hbelow]
    · simp [h, habove]

/-- The loop of R103 after its first `n` rounds: the lowest `n` bits of `v` stand reversed at the top. -/
theorem rev16_loop_getLsbD (v : Row) {n i : Nat} (hn : n ≤ 16) (hi : i < 16) :
    ((List.range n).foldl
      (fun out k => out ||| ((BitVec.ofBool (v.getLsbD k)).setWidth 16 <<< (15 - k))) (0 : Row)).getLsbD i =
      (decide (15 - i < n) && v.getLsbD (15 - i)) := by
  induction n with
  | zero => simp
  | succ n ih =>
    rw [List.range_succ, List.foldl_append, List.foldl_cons, List.foldl_nil, BitVec.getLsbD_or, ih (by omega),
      rev16_round_getLsbD v hn hi]
    by_cases h : n = 15 - i
    · simp [h]
    · have hlt : 15 - i < n + 1 ↔ 15 - i < n := by omega
      simp [h, hlt]

/-- The loop of R103 is the library's bit reversal. -/
theorem rev16_eq_reverse (v : Row) : rev16 v = v.reverse := by
  refine BitVec.eq_of_getLsbD_eq fun i hi => ?_
  have hlast : 15 - i < 16 := by omega
  rw [rev16, rev16_loop_getLsbD v le_rfl hi, BitVec.getLsbD_reverse, BitVec.getMsbD]
  simp [hi, hlast]

theorem rev16_rev16 (v : Row) : rev16 (rev16 v) = v := by
  rw [rev16_eq_reverse, rev16_eq_reverse, BitVec.reverse_reverse_eq]

/-- Reversing two bytes reverses each and exchanges them. -/
theorem rev16_append (a b : Byte) : rev16 (a ++ b) = b.reverse ++ a.reverse := by
  rw [rev16_eq_reverse, BitVec.reverse_append, BitVec.cast_eq]

theorem rev16_bytes (v : Row) : rev16 v = (lo8 v).reverse ++ (hi8 v).reverse :=
  (congrArg rev16 (row_bytes v).symm).trans (rev16_append (hi8 v) (lo8 v))

theorem lo8_rev16 (v : Row) : lo8 (rev16 v) = (hi8 v).reverse := by
  rw [rev16_bytes]
  exact BitVec.extractLsb'_append_eq_right

theorem hi8_rev16 (v : Row) : hi8 (rev16 v) = (lo8 v).reverse := by
  rw [rev16_bytes]
  exact BitVec.extractLsb'_append_eq_left

/-- Settles O29: the loop of R103, by induction on its rounds; the source's example is computed. -/
theorem bitReversalRule : Obligations.BitReversalRule := by
  refine ⟨fun v k hk => ?_, by decide⟩
  have hplace : 15 - k < 16 ∧ 15 - (15 - k) = k := by omega
  rw [rev16_eq_reverse, BitVec.getLsbD_reverse, BitVec.getMsbD]
  simp [hplace]

/-- Settles O30: both bytes of a reversal are reversals of bytes, so the swap before and the swap after agree. -/
theorem bitReversalLaws : Obligations.BitReversalLaws := fun v =>
  ⟨rev16_rev16 v, by rw [rev16_append, lo8_rev16, hi8_rev16]⟩

/-! ### The bytes of a slot and of the payload (R105, R106) -/

theorem sourceRow_ofNat (vFlipped : Bool) {p : Nat} (hp : p < 8) :
    sourceRow vFlipped (BitVec.ofNat 3 p) = BitVec.ofNat 3 (if vFlipped then 7 - p else p) := by
  cases vFlipped with
  | false => rfl
  | true =>
    have hmirror : ∀ p < 8, sourceRow true (BitVec.ofNat 3 p) = BitVec.ofNat 3 (7 - p) := by decide
    exact hmirror p hp

/-- Settles O31: each flag governs one stage of the pipeline. -/
theorem slotBytes : Obligations.SlotBytes := by
  refine ⟨fun s p hp => ?_, fun v => ⟨lo8_rev16 v, hi8_rev16 v⟩⟩
  rw [writeRow, sourceRow_ofNat _ hp]
  cases s.vFlipped <;> cases s.hFlipped <;> cases s.reversed <;> rfl

/-- Where the lists put together all have two elements, element `2p + j` is element `j` of the list of `p`. -/
theorem flatMap_pairs_getElem? {α β : Type} {f : α → List β} (hf : ∀ x, (f x).length = 2) (l : List α) (p : Nat)
    {j : Nat} (hj : j < 2) : (l.flatMap f)[2 * p + j]? = l[p]?.bind fun x => (f x)[j]? := by
  induction l generalizing p with
  | nil => simp
  | cons x l ih =>
    rw [List.flatMap_cons]
    cases p with
    | zero => simp [List.getElem?_append_left, hf, hj]
    | succ p =>
      rw [List.getElem?_append_right (by rw [hf]; omega), hf, show 2 * (p + 1) + j - 2 = 2 * p + j by omega, ih]
      rfl

theorem payload_getElem? (s : State) {p j : Nat} (hp : p < 8) (hj : j < 2) :
    (payload s)[2 * p + j]? = (writeRow s (BitVec.ofNat 3 p))[j]? := by
  have hslot : ∀ p < 8, ([0, 1, 2, 3, 4, 5, 6, 7] : List (BitVec 3))[p]? = some (BitVec.ofNat 3 p) := by decide
  rw [payload, flatMap_pairs_getElem? (writeRow_length s) _ _ hj, hslot p hp]
  rfl

/-- Settles O32: eight slots of two bytes each, one after the other. -/
theorem payloadOrder : Obligations.PayloadOrder := by
  refine fun s => ⟨payload_length s, fun p hp => ?_⟩
  obtain ⟨a, b, hslot⟩ := List.length_eq_two.1 (writeRow_length s (BitVec.ofNat 3 p))
  have hbyte {j : Nat} (hj : j < 2) : (payload s)[2 * p + j]? = [a, b][j]? := hslot ▸ payload_getElem? s hp hj
  exact ⟨a, b, hslot, hbyte (j := 0) (by decide), hbyte (j := 1) (by decide)⟩

/-! ### The toggles (R99 to R102, R109) -/

/-- REVERSE, FLIPV and FLIPH: the operations that invert one flag and do nothing else. -/
def IsToggle (i : Instr) : Prop := i = .reverse ∨ i = .flipv ∨ i = .fliph

theorem IsToggle.opName {i : Instr} (hi : IsToggle i) : ∃ op, i.opName = some op ∧ op ≠ .init := by
  obtain rfl | rfl | rfl := hi <;> exact ⟨_, rfl, by decide⟩

theorem IsToggle.body {i : Instr} (hi : IsToggle i) (s : State) :
    bodyOf i s =
      { s with
        reversed := (bodyOf i s).reversed, vFlipped := (bodyOf i s).vFlipped, hFlipped := (bodyOf i s).hFlipped,
        pc := (bodyOf i s).pc, fault := (bodyOf i s).fault } := by
  obtain rfl | rfl | rfl := hi <;> rfl

/-- The flag of another toggle stays. -/
theorem IsToggle.otherFlags {i : Instr} (hi : IsToggle i) (s : State) :
    (i ≠ .reverse → (bodyOf i s).reversed = s.reversed) ∧ (i ≠ .flipv → (bodyOf i s).vFlipped = s.vFlipped) ∧
      (i ≠ .fliph → (bodyOf i s).hFlipped = s.hFlipped) := by
  obtain rfl | rfl | rfl := hi <;> simp [bodyOf]

theorem IsToggle.completed_twice {i : Instr} (hi : IsToggle i) (s : State) :
    complete (bodyOf i (complete (bodyOf i s))) = { s with pc := s.pc + 2 } := by
  obtain rfl | rfl | rfl := hi <;> simp [bodyOf, complete]

/-- Two calls of a toggle leave `pc` two further and everything else as it was. -/
theorem IsToggle.exec_twice {i : Instr} (hi : IsToggle i) {s : State} (hs : Ready s) :
    ∃ t, exec i s = .next t ∧ exec i t = .next { s with pc := s.pc + 2 } := by
  obtain ⟨hf, hinit⟩ := hs
  obtain ⟨_, ho, _⟩ := hi.opName
  have hfault : (complete (bodyOf i s)).fault = none := by simpa using hf
  have hinited : (complete (bodyOf i s)).inited = true := bodyOf_completed_inited ho (.inl hinit)
  exact ⟨_, exec_ready ho hf (.inl hinit), hi.completed_twice s ▸ exec_ready ho hfault (.inl hinited)⟩

/-- Settles O28: a toggle inverts its flag, and a flag inverted twice is as it was. -/
theorem togglesRule : Obligations.TogglesRule :=
  ⟨decodesAs_row (List.mem_of_getElem? (i := 5) rfl), decodesAs_row (List.mem_of_getElem? (i := 6) rfl),
    decodesAs_row (List.mem_of_getElem? (i := 7) rfl), faultsAs_of_opName rfl (by decide),
    faultsAs_of_opName rfl (by decide), faultsAs_of_opName rfl (by decide),
    fun _ ⟨hf, hinit⟩ =>
      ⟨exec_ready (i := .reverse) rfl hf (.inl hinit), exec_ready (i := .flipv) rfl hf (.inl hinit),
        exec_ready (i := .fliph) rfl hf (.inl hinit),
        fun _ hi => IsToggle.exec_twice (by simpa [IsToggle] using hi) ⟨hf, hinit⟩⟩⟩

/-- Settles O33: after two calls only `pc` differs, which WRITE does not read. -/
theorem togglePairKeepsOutput : Obligations.TogglePairKeepsOutput := by
  intro i s hi hs
  have htoggle : IsToggle i := by simpa [IsToggle, or_comm, or_left_comm] using hi
  obtain ⟨t, ht, hu⟩ := htoggle.exec_twice hs
  obtain ⟨hf, hinit⟩ := hs
  exact ⟨t, _, _, _, ht, hu, exec_ready (i := .write) rfl hf (.inl hinit),
    exec_ready (i := .write) rfl hf (.inl hinit), rfl⟩

/-- Settles O54: the operation is completed and its body inverted one flag, or a fault and nothing else. -/
theorem togglesFrame : Obligations.TogglesFrame := by
  intro i s t hi h
  have htoggle : IsToggle i := by simpa [IsToggle] using hi
  obtain ⟨op, ho, hop⟩ := htoggle.opName
  rw [exec_hostOp i op s ho hop] at h
  obtain ⟨hf, ⟨_, rfl⟩ | ⟨huninit, rfl⟩⟩ := hostOp_next h
  · have hbody := htoggle.body s
    obtain ⟨hreversed, hvFlipped, hhFlipped⟩ := htoggle.otherFlags s
    exact ⟨congrArg complete hbody, hreversed, hvFlipped, hhFlipped, fun _ => by simpa using hf,
      fun a => congrArg (fun u => u.device.ram.read a) hbody⟩
  · exact ⟨rfl, fun _ => rfl, fun _ => rfl, fun _ => rfl, fun hinit => by simp [huninit] at hinit, fun _ => rfl⟩

end Sys2Proof.Proofs
end

section
/-! PROOFS of the family 42_device_commands: the bytes the device commands send, what each command leaves of the Block,
and the frames of WRITE and INIT. -/

namespace Sys2Proof.Proofs

open Sys2Proof.Machine Sys2Proof.Laws

/-! ### The bytes sent (R122 to R127) -/

theorem sysByte_on (p : Params) : sysByte p true = p.cmdSystem ||| 1 := rfl

theorem sysByte_off (p : Params) : sysByte p false = p.cmdSystem := BitVec.or_zero

/-- The low `n` bits of an operand as a byte: the operand modulo `2 ^ n`. -/
theorem setWidth_low_bits (x : Byte) (n : Nat) : (x.extractLsb' 0 n).setWidth 8 = BitVec.ofNat 8 (x.toNat % 2 ^ n) :=
  BitVec.eq_of_toNat_eq (by simp)

theorem dimByte_levelOf (p : Params) (level : Byte) :
    dimByte p (levelOf level) = p.cmdDimming ||| BitVec.ofNat 8 (level.toNat % 16) := by
  rw [dimByte, levelOf, setWidth_low_bits]
  rfl

theorem setupByte_rateOf (p : Params) (rate : Byte) :
    setupByte p true (rateOf rate) =
      p.cmdSetup ||| (1#8 <<< p.setupOnBit.val) ||| (BitVec.ofNat 8 (rate.toNat % 4) <<< p.setupBlinkLsb.val) := by
  rw [setupByte, rateOf, setWidth_low_bits]
  rfl

theorem boolOf_eq_false {f : Byte} : boolOf f = false ↔ f = 0 := bne_eq_false_iff_eq

/-- The active-high bit is sent only together with interrupt mode, never `ROWINT | 0b10` (R126). -/
theorem rowintByte_masked (p : Params) (ri act : Bool) :
    rowintByte p ri (ri && act) =
      p.cmdRowint ||| (if ri = false then 0b00 else if act = false then 0b01 else 0b11) := by
  rw [rowintByte, BitVec.or_assoc]
  cases ri <;> cases act <;> rfl

theorem rowintByte_boolOf (p : Params) (u h : Byte) :
    rowintByte p (boolOf u) (boolOf u && boolOf h) =
      p.cmdRowint ||| (if u = 0 then 0b00 else if h = 0 then 0b01 else 0b11) := by
  simp only [rowintByte_masked, boolOf_eq_false]

theorem payload_slots (s : State) :
    payload s =
      writeRow s 0 ++ writeRow s 1 ++ writeRow s 2 ++ writeRow s 3 ++ writeRow s 4 ++ writeRow s 5 ++ writeRow s 6 ++
        writeRow s 7 := by
  simp [payload]

/-! ### Commands of one transaction -/

/-- An operation that is one write transaction completes with that transaction on the trace; the Device and the script
aside, nothing else of the state changes. -/
theorem exec_sends {i : Instr} {op : OpName} {bytes : List Byte} {react : Device → Device} {s : State}
    (ho : i.opName = some op) (hs : Ready s) (hbody : bodyOf i s = busWrite bytes react s) :
    ∃ d o, exec i s = .next
      { s with trace := s.trace ++ [.tx s.addr bytes], device := d, script := o, pc := s.pc + 1 } := by
  obtain ⟨hf, hi⟩ := hs
  refine ⟨deliver react s, s.script.tail, ?_⟩
  rw [exec_ready ho hf (.inl hi), hbody]
  rfl

/-- Settles O37: the mirror `power` is written whatever it held. -/
theorem wakeAndSleepRule : Obligations.WakeAndSleepRule := by
  refine ⟨decodesAs_row (List.mem_of_getElem? (i := 9) rfl), decodesAs_row (List.mem_of_getElem? (i := 10) rfl),
    faultsAs_of_opName rfl (by decide), faultsAs_of_opName rfl (by decide), fun s ⟨hf, hi⟩ => ⟨?_, ?_⟩⟩
  · rw [← sysByte_on]
    exact ⟨_, _, exec_ready (i := .wakeup) rfl hf (.inl hi)⟩
  · rw [← sysByte_off]
    exact ⟨_, _, exec_ready (i := .sleep) rfl hf (.inl hi)⟩

/-- Settles O38: the 4-bit level is the operand modulo 16. -/
theorem setBrightnessRule : Obligations.SetBrightnessRule := by
  refine ⟨decodesAs_row (List.mem_of_getElem? (i := 11) rfl), fun _ => faultsAs_of_opName rfl (by decide),
    fun level s hs => ?_⟩
  rw [← dimByte_levelOf]
  exact exec_sends (i := .setbrightness level) rfl hs rfl

/-- Settles O39: the 2-bit blink code is the operand modulo 4, and the display-on flag is always sent set. -/
theorem setBlinkRule : Obligations.SetBlinkRule := by
  refine ⟨decodesAs_row (List.mem_of_getElem? (i := 12) rfl), fun _ => faultsAs_of_opName rfl (by decide),
    fun rate s hs => ?_⟩
  rw [← setupByte_rateOf]
  exact exec_sends (i := .setblink rate) rfl hs rfl

/-- Settles O40: the byte for each of the four inputs. -/
theorem setRowIntRule : Obligations.SetRowIntRule := by
  refine ⟨decodesAs_row (List.mem_of_getElem? (i := 13) rfl), fun _ _ => faultsAs_of_opName rfl (by decide),
    fun u h s hs => ?_⟩
  rw [← rowintByte_boolOf]
  exact exec_sends (i := .setrowint u h) rfl hs rfl

/-- Settles O41: one transaction, the display-RAM byte before the eight slots of the pipeline. -/
theorem writeRule : Obligations.WriteRule := by
  refine ⟨decodesAs_row (List.mem_of_getElem? (i := 14) rfl), faultsAs_of_opName rfl (by decide), fun s hs => ?_⟩
  obtain ⟨d, o, hexec⟩ := exec_sends (i := .write) rfl hs rfl
  exact ⟨s.params.cmdRam :: payload s, d, o, congrArg (· + 1) (payload_length s),
    congrArg (s.params.cmdRam :: ·) (payload_slots s), hexec⟩

/-! ### INIT -/

/-- The four transactions of INIT in their order (R121, D35), the last one with the zeros of the cleared buffer. -/
theorem initBody_trace (a : BitVec 7) (s : State) :
    (initBody a s).trace = s.trace ++
      [.tx a [s.params.cmdSystem ||| 1], .tx a [setupByte s.params true 0], .tx a [dimByte s.params 15],
        .tx a (s.params.cmdRam :: List.replicate 16 0)] := by
  have hzeros : payload (brightnessBody 15 (blinkBody 0 (wakeBody (initState a s)))) = List.replicate 16 0 :=
    payload_cleared rfl
  rw [initBody, writeBody, hzeros]
  simp [brightnessBody, blinkBody, wakeBody, sysByte_on]

/-- What INIT leaves of the Block, its first sub-steps having set every field the source initialises (R121, R35). -/
theorem initBody_block (a : BitVec 7) (s : State) :
    initBody a s =
      { s with
        inited := true, buf := Vector.replicate 8 0, reversed := false, vFlipped := false, hFlipped := false,
        power := .awake, addr := a, trace := (initBody a s).trace, script := (initBody a s).script,
        device := (initBody a s).device } := rfl

/-- Settles O35: INIT needs no initialised Block, and what it leaves does not depend on what it found there. -/
theorem initRule : Obligations.InitRule := by
  refine ⟨decodesAs_row (List.mem_of_getElem? (i := 8) rfl), fun a _ _ hf => exec_stuck (i := .init a) rfl hf,
    fun a s hf => ⟨Vector.replicate 8 0, (initBody a s).device, (initBody a s).script, fun r => by simp, ?_⟩⟩
  rw [← initBody_trace, exec_ready (i := .init a) rfl hf (.inr rfl)]
  exact congrArg (Host.Outcome.next ∘ complete) (initBody_block a s)

/-! ### Frames -/

/-- WRITE reaches only the display RAM and the selected register of the Device. -/
theorem writeBody_device_frame (s : State) :
    (writeBody s).device =
      { s.device with ram := (writeBody s).device.ram, selected := (writeBody s).device.selected } := by
  rw [writeBody_device]
  exact deliver_of (P := fun e => e = { s.device with ram := e.ram, selected := e.selected }) rfl rfl

/-- After WRITE a byte of the display RAM is as it was, or it is one of the 16 and holds its payload byte. -/
theorem writeBody_ram (s : State) (a : Nat) :
    (writeBody s).device.ram.read a = s.device.ram.read a ∨
      (s.params.cmdRam.toNat ≤ a ∧ a < s.params.cmdRam.toNat + 16) ∧
        (writeBody s).device.ram.read a = (payload s)[a - s.params.cmdRam.toNat]? := by
  rw [writeBody_device]
  cases hr : reaches s with
  | false => exact .inl (by rw [deliver_lost hr])
  | true =>
    rw [deliver_reached hr, storeRam_read, payload_length]
    split
    · next hin => exact .inr ⟨hin, rfl⟩
    · exact .inl rfl

/-- Settles O56: the frame of WRITE's one transaction, or a fault and nothing else. -/
theorem writeFrame : Obligations.WriteFrame := by
  intro s t h
  obtain ⟨hf, rfl | ⟨huninit, rfl⟩⟩ := exec_op_next (i := .write) rfl h
  · refine ⟨rfl, fun _ => hf, writeBody_device_frame s, fun a => ?_⟩
    have hram := writeBody_ram s a
    split
    · exact hram.imp_right And.right
    · next hout => exact hram.resolve_right fun ⟨hin, _⟩ => hout hin
  · refine ⟨rfl, fun hinit => by simp [huninit] at hinit, rfl, fun a => ?_⟩
    split
    · exact .inl rfl
    · rfl

/-- From `d` to `e` the pin configuration and the display RAM stayed. -/
def PinsAndRamKept (d e : Device) : Prop := e.rowInt = d.rowInt ∧ e.activeHigh = d.activeHigh ∧ e.ram = d.ram

/-- The first three transactions of INIT are the oscillator-on, setup and dimming commands, none of which writes the
pins or the RAM. -/
theorem initSettings_pinsAndRamKept (a : BitVec 7) (s : State) :
    PinsAndRamKept s.device (brightnessBody 15 (blinkBody 0 (wakeBody (initState a s)))).device :=
  have hstart : PinsAndRamKept s.device (initState a s).device := ⟨rfl, rfl, rfl⟩
  have hwake : PinsAndRamKept s.device (wakeBody (initState a s)).device := deliver_of hstart hstart
  have hblink : PinsAndRamKept s.device (blinkBody 0 (wakeBody (initState a s))).device := deliver_of hwake hwake
  deliver_of hblink hblink

/-- Settles O57: the fourth transaction of INIT is a WRITE, the only one that stores into the display RAM. -/
theorem initFrame : Obligations.InitFrame := by
  intro a s t h
  obtain ⟨_, rfl⟩ := initOp_next (exec_init a s ▸ h)
  obtain ⟨hdata, hflag, hkey, hint⟩ := initBody_keysKept a s
  obtain ⟨hrowInt, hactive, hram⟩ := initSettings_pinsAndRamKept a s
  have hwrite := writeBody_device_frame (brightnessBody 15 (blinkBody 0 (wakeBody (initState a s))))
  refine ⟨rfl, rfl, rfl, rfl, rfl, rfl, rfl, rfl, (congrArg Device.rowInt hwrite).trans hrowInt,
    (congrArg Device.activeHigh hwrite).trans hactive, hdata, hflag, hkey, hint, fun x hout => ?_⟩
  rw [← hram]
  exact (writeBody_ram _ x).resolve_right fun ⟨hin, _⟩ => hout hin

end Sys2Proof.Proofs
end

section
/-! PROOFS of the family 43_keyscan: the words decoded from a key-data answer, what the key-scan operations leave of the
Block and of the latches, and that they read neither the rows nor the orientation flags. -/

namespace Sys2Proof.Proofs

open Sys2Proof.Machine Sys2Proof.Laws

/-! ### GETKEYDATA (R150) -/

/-- The concatenation of two bytes as a number, the low byte first (R46). -/
theorem append_eq_ofNat (hi lo : Byte) : hi ++ lo = BitVec.ofNat 16 (lo.toNat + 256 * hi.toNat) := by
  have hsum : hi.toNat <<< 8 ||| lo.toNat = lo.toNat + 256 * hi.toNat := by
    rw [← Nat.shiftLeft_add_eq_or_of_lt lo.isLt, Nat.shiftLeft_eq]
    omega
  rw [← hsum, ← BitVec.toNat_append, BitVec.ofNat_toNat, BitVec.setWidth_eq]

theorem keyWord_eq_ofNat (b : List Byte) (j : Nat) :
    keyWord b j = BitVec.ofNat 16 ((b.getD (2 * j) 0).toNat + 256 * (b.getD (2 * j + 1) 0).toNat) :=
  append_eq_ofNat ..

/-- `KEY_WORDS_DECODED` says how many words the snapshot takes from the answer; the others stay. -/
theorem snapshot_getElem (k : KeyWords) (old : Vector (Option Row) 3) (b : List Byte) (j : Fin 3) :
    (snapshot k old b)[j] = if j.val < k.count then some (keyWord b j) else old[j] := by
  cases k with
  | two => fin_cases j <;> rfl
  | three => fin_cases j <;> rfl

/-- What GETKEYDATA leaves of the Block. -/
theorem getkeydata_block (s : State) :
    complete (bodyOf .getkeydata s) =
      { s with
        ks := snapshot s.params.keyWords s.ks (answer (selectKeysBody s) 6)
        trace := s.trace ++ [.tx s.addr [s.params.cmdKeys], .rx s.addr 6 (answer (selectKeysBody s) 6)]
        device := (bodyOf .getkeydata s).device, script := (bodyOf .getkeydata s).script, pc := s.pc + 1 } := by
  rw [← getkeydata_trace]
  rfl

/-- Settles O42: the answer is the one to the read that follows the select write. -/
theorem getKeyDataRule : Obligations.GetKeyDataRule := by
  refine ⟨decodesAs_row (List.mem_of_getElem? (i := 15) rfl), faultsAs_of_opName rfl (by decide),
    fun s ⟨hf, hi⟩ => ⟨answer (selectKeysBody s) 6, snapshot s.params.keyWords s.ks (answer (selectKeysBody s) 6),
      (bodyOf .getkeydata s).device, (bodyOf .getkeydata s).script, answer_length .., fun j => ?_,
      getkeydata_clears_latches, ?_⟩⟩
  · rw [snapshot_getElem, keyWord_eq_ofNat]
  · rw [exec_ready (i := .getkeydata) rfl hf (.inl hi), getkeydata_block]

/-! ### GETKEYINT (R153) -/

/-- What GETKEYINT leaves of the Block: its answer is one byte. -/
theorem getkeyint_block (s : State) :
    complete (bodyOf .getkeyint s) =
      { s with
        keyint := some (answerByte (selectIntFlagBody s) 0 != 0)
        trace := s.trace ++
          [.tx s.addr [s.params.cmdIntflag], .rx s.addr 1 [answerByte (selectIntFlagBody s) 0]]
        device := (bodyOf .getkeyint s).device, script := (bodyOf .getkeyint s).script, pc := s.pc + 1 } := by
  have hanswer : [answerByte (selectIntFlagBody s) 0] = answer (selectIntFlagBody s) 1 := rfl
  rw [hanswer, ← getkeyint_trace]
  rfl

/-- A lost read leaves what the select write made of the Device (R50). -/
theorem getkeyint_device_read_lost {s : State} (hselect : reaches s = true)
    (hread : reaches (selectIntFlagBody s) = false) :
    (bodyOf .getkeyint s).device = s.device.selectIntFlag := by
  rw [bodyOf, readIntFlagBody_device, deliver_lost hread, selectIntFlagBody_reached hselect]

/-- Once the select write has reached the Device, GETKEYINT keeps the key data and can only set the key latch (R153,
R178). -/
theorem getkeyint_keyParts {s : State} (hselect : reaches s = true) :
    (bodyOf .getkeyint s).device.keyData = s.device.keyData ∧
    (bodyOf .getkeyint s).device.keyLatch =
      (s.device.keyLatch || (reaches (selectIntFlagBody s) && answerByte (selectIntFlagBody s) 0 != 0)) := by
  cases hread : reaches (selectIntFlagBody s) with
  | false =>
    rw [getkeyint_device_read_lost hselect hread]
    exact ⟨rfl, (Bool.or_false _).symm⟩
  | true =>
    obtain ⟨hdata, hkey, _⟩ := getkeyint_latches hselect hread
    exact ⟨hdata, hkey⟩

/-- Where `INTFLAG_READ_CLEARS` holds, a read that reaches the Device clears the interrupt latch (R49). -/
theorem getkeyint_intLatch_clears {s : State} (hclears : s.params.intflagReadClears = true)
    (hselect : reaches s = true) (hread : reaches (selectIntFlagBody s) = true) :
    (bodyOf .getkeyint s).device.intLatch = false := by
  obtain ⟨_, _, hint⟩ := getkeyint_latches hselect hread
  rw [hint, hclears]
  exact Bool.and_false _

/-- Where `INTFLAG_READ_CLEARS` does not hold, the interrupt latch can only be set (R49, R178). -/
theorem getkeyint_intLatch_keeps {s : State} (hkeeps : s.params.intflagReadClears = false)
    (hselect : reaches s = true) :
    (bodyOf .getkeyint s).device.intLatch =
      (s.device.intLatch || (reaches (selectIntFlagBody s) && answerByte (selectIntFlagBody s) 0 != 0)) := by
  cases hread : reaches (selectIntFlagBody s) with
  | false =>
    rw [getkeyint_device_read_lost hselect hread]
    exact (Bool.or_false _).symm
  | true =>
    obtain ⟨_, _, hint⟩ := getkeyint_latches hselect hread
    rw [hint, hkeeps]
    exact Bool.and_true _

/-- Settles O43: the byte is the answer to the read that follows the select write; it tells of the latches only where
that read reached the Device. -/
theorem getKeyIntRule : Obligations.GetKeyIntRule := by
  refine ⟨decodesAs_row (List.mem_of_getElem? (i := 16) rfl), faultsAs_of_opName rfl (by decide),
    fun s ⟨hf, hi⟩ => ⟨answerByte (selectIntFlagBody s) 0, (bodyOf .getkeyint s).device,
      (bodyOf .getkeyint s).script, getkeyint_keyParts, getkeyint_intLatch_clears, getkeyint_intLatch_keeps, ?_⟩⟩
  have hpending : (answerByte (selectIntFlagBody s) 0 != 0) = decide (answerByte (selectIntFlagBody s) 0 ≠ 0) :=
    decide_not.symm
  rw [exec_ready (i := .getkeyint) rfl hf (.inl hi), getkeyint_block, hpending]

/-! ### The rows and the orientation flags are not read (R154) -/

/-- A state with these rows and orientation flags for its own. -/
def withDisplay (b : Rows) (rv vf hf : Bool) (s : State) : State :=
  { s with buf := b, reversed := rv, vFlipped := vf, hFlipped := hf }

/-- The body of a key-scan operation takes nothing from the rows and the flags, and leaves them. -/
theorem keyScan_withDisplay {i : Instr} (hi : i ∈ [Instr.getkeydata, .getkeyint]) (b : Rows) (rv vf hf : Bool)
    (s : State) : bodyOf i (withDisplay b rv vf hf s) = withDisplay b rv vf hf (bodyOf i s) := by
  obtain rfl | rfl := keyScan_cases hi
  · rfl
  · rfl

/-- Settles O46: the checks of R172 read neither the rows nor the flags, and no body of a key-scan operation does. -/
theorem keyScanIgnoresDisplay : Obligations.KeyScanIgnoresDisplay := by
  intro i s t b rv vf hf hi h
  have hbody := keyScan_withDisplay hi b rv vf hf s
  obtain ⟨_, hexec, rfl⟩ := exec_related (s' := withDisplay b rv vf hf s)
    (R := fun t u => u = withDisplay b rv vf hf t) h rfl rfl hbody (congrArg complete hbody) (fun _ => rfl)
  exact hexec

end Sys2Proof.Proofs
end

section
/-! PROOFS of the family 60_exceptions: what the decoder answers for any word, the checks of an issued operation in their
order, and the completion of every operation that passes them. -/

namespace Sys2Proof.Proofs

open Sys2Proof.Machine Sys2Proof.Laws

/-! ### Completion (R170) -/

/-- Settles O14: no body, whatever its operands and whatever the bus makes of its transactions, writes `fault`. -/
theorem noOperandOrBusOutcomeFaults : Obligations.NoOperandOrBusOutcomeFaults := by
  intro i op s ho hf hi
  exact ⟨_, exec_ready ho hf hi, by simp [hf], by simp⟩

/-! ### The checks in their order (R172) -/

/-- The decoder's three answers for any word, each with the reason for it (R66). -/
theorem decodeWord_cases (w : BitVec 32) :
    (decodeWord w = .error (.illegalOp w) ∧ ∀ row ∈ opcodeMap, opc w ≠ row.1) ∨
    (decodeWord w = .error (.reservedBits w) ∧ ∃ row ∈ opcodeMap, opc w = row.1 ∧ w &&& row.2 ≠ 0) ∨
    ∃ i op, decodeWord w = .ok i ∧ i.opName = some op := by
  obtain ⟨hunassigned, hassigned⟩ := decoderIsTotalInOrder w
  by_cases hrow : ∃ row ∈ opcodeMap, opc w = row.1
  · obtain ⟨row, hmem, hopc⟩ := hrow
    obtain ⟨hreserved, hdecodes⟩ := hassigned row hmem hopc
    by_cases hm : w &&& row.2 = 0
    · obtain ⟨i, op, hd, ho, _⟩ := hdecodes hm
      exact .inr (.inr ⟨i, op, hd, ho⟩)
    · exact .inr (.inl ⟨hreserved hm, row, hmem, hopc, hm⟩)
  · have hnone : ∀ row ∈ opcodeMap, opc w ≠ row.1 := fun row hmem hopc => hrow ⟨row, hmem, hopc⟩
    exact .inl ⟨hunassigned hnone, hnone⟩

/-- An issued word that is no operation fails at decoding. -/
theorem step_issued_undecoded {s : State} {op : HostOp} {e : DecodeError} (h : Issues s op)
    (hd : decodeWord op.word = .error e) : step s = decodeFailed e s := by
  obtain ⟨hf, hw, hr, ho⟩ := h
  rw [step, fetch_op s op hf hw hr ho, hd]
  rfl

/-- An operation after decoding: the one check left is that of R26, which INIT does not make. -/
theorem exec_checked {i : Instr} {op : OpName} {s : State} (ho : i.opName = some op) (hf : s.fault = none) :
    if s.inited = false ∧ op ≠ .init then exec i s = .next { s with fault := some (.notInitialised op) }
    else ∃ t, exec i s = .next t ∧ t.fault = none ∧ t.pc = s.pc + 1 := by
  split_ifs with hcheck
  · obtain ⟨hi, hop⟩ := hcheck
    exact exec_notInitialised ho hop hf hi
  · have hpasses : s.inited = true ∨ op = .init := by simpa [or_iff_not_imp_left] using hcheck
    exact noOperandOrBusOutcomeFaults i op s ho hf hpasses

/-- Settles O12: a recorded fault stops the step, then the decoder's answer decides, then the check of R26. -/
theorem checksRunInOrder : Obligations.ChecksRunInOrder := by
  refine ⟨fun _ _ => step_stuck, fun s op h => ?_⟩
  obtain ⟨hd, hunassigned⟩ | ⟨hd, hreserved⟩ | ⟨i, name, hd, ho⟩ := decodeWord_cases op.word
  · exact .inl ⟨hd, hunassigned, step_issued_undecoded h hd⟩
  · exact .inr (.inl ⟨hd, hreserved, step_issued_undecoded h hd⟩)
  · refine .inr (.inr ⟨i, name, hd, ho, ?_⟩)
    rw [step_issued h hd]
    obtain ⟨hf, _⟩ := h
    exact exec_checked ho hf

end Sys2Proof.Proofs
end
